-- ==== Sys2Proof/Word.lean ====
section
/-! DEFINITION. The words of the HRE: the 32-bit command and register word, the binary32 pattern, bytes, and register
numbers (rules R5, R8, R21, R91 of spec/). -/

namespace Sys2Proof

/-- A 32-bit word: a command, an operand register, a control register (R5, R21, R25, R90). -/
abbrev Word := BitVec 32

/-- An IEEE 754 binary32 value held as its 32-bit pattern (R8). -/
abbrev F32 := BitVec 32

/-- One byte. -/
abbrev Byte := BitVec 8

/-- The number of an operand register, X0 to X15 (R21, R91). -/
abbrev Reg := BitVec 4

end Sys2Proof
end

