-- ==== Sys2Proof/Config.lean ====
section
/-! DEFINITION. The implementation parameters of rule R4 at their reference values, and the environment's answers (R6
`draw`), which stay free. -/

namespace Sys2Proof.Config

/-- Sample rate in Hz (R4). -/
abbrev SR : Nat := 44100
/-- Steps per pattern (R4). -/
abbrev NSTEP : Nat := 16
/-- Delay ring capacity in frames, equal to SR (R4). -/
abbrev CAP : Nat := 44100
/-- Number of tracks (R4). -/
abbrev NTRK : Nat := 4
/-- Frames per PCM buffer (R4). -/
abbrev BUFLEN : Nat := 1024
/-- PCM buffers in the round-robin pool (R4). -/
abbrev NBUF : Nat := 2
/-- Number of wavetables, one per MIDI note (R4). -/
abbrev NWT : Nat := 128
/-- Samples per wavetable body (R4). -/
abbrev WTLEN : Nat := 2048
/-- Stored samples per wavetable: the body and three guards (R4). -/
abbrev WTPAD : Nat := WTLEN + 3
/-- Address stride between wavetables (R4). -/
abbrev WTSTRIDE : Nat := 4096
/-- Words of sample memory (R4). -/
abbrev SMEMLEN : Nat := 262144
/-- All-pass stages per reverb channel (R4). -/
abbrev NAP : Nat := 4
/-- All-pass stages per track, both reverb channels (R160). -/
abbrev NSTAGE : Nat := 2 * NAP
/-- High-pass units per track (R164). -/
abbrev NHPF : Nat := 3
/-- Slots of one frame of the render schedule (R236). -/
abbrev NSLOT : Nat := 2 * NTRK + 1
/-- The modulus M = CAP · 65536 of the Q16.16 read cursor (R176). -/
abbrev RINGMOD : Nat := CAP * 65536

/-- All-pass buffer lengths REVLEN[0..7], left chain 0..3, right chain 4..7 (R4). -/
def REVLEN (u : Fin NSTAGE) : Nat :=
  match u.val with
  | 0 => 556
  | 1 => 441
  | 2 => 341
  | 3 => 225
  | 4 => 579
  | 5 => 464
  | 6 => 364
  | _ => 248

/-- All-pass feedback coefficient 0.5 of every stage (R4). -/
abbrev REVFB : F32 := 0x3F000000#32
/-- Amplitude factor of an accented step, 1.0 (R4). -/
abbrev ACC_GAIN : F32 := 0x3F800000#32
/-- Amplitude factor of an unaccented step, 0.5 (R4). -/
abbrev NORM_GAIN : F32 := 0x3F000000#32
/-- 2π in binary32 (R4). -/
abbrev TWO_PI : F32 := 0x40C90FDB#32

/-- The environment's n-th answer that no script supplies (R6 `draw`, 93_implementation_defined.md I1 to I6): a FREE value,
with no body, so that nothing can be proved of it. Bit 0 answers `draw({0,1})`; all seven bits answer SEQ.RNDS's draw from
its 128 notes. Safe; assumption 2. -/
opaque answer : Nat → BitVec 7

end Sys2Proof.Config
end

