-- ==== Sys2Proof/Machine/Binary32.lean ====
section
/-! DEFINITION. The binary32 primitives of rules R8 to R12: exact arithmetic on integers, rounded once to nearest even. A
finite pattern stands for ±mant · 2^scale with integers mant and scale. -/

namespace Sys2Proof.Machine

open Sys2Proof

/-- The canonical quiet NaN (R9). -/
abbrev canonicalNaN : F32 := 0x7FC00000#32
/-- +∞. -/
abbrev plusInf : F32 := 0x7F800000#32
/-- 0.5 (R11). -/
abbrev fHalf : F32 := 0x3F000000#32
/-- 1.0 (R11). -/
abbrev fOne : F32 := 0x3F800000#32
/-- -1.0. -/
abbrev fMinusOne : F32 := 0xBF800000#32
/-- 1.5 (R11). -/
abbrev fOneHalf : F32 := 0x3FC00000#32
/-- 2.0 (R11). -/
abbrev fTwo : F32 := 0x40000000#32
/-- 2.5 (R11). -/
abbrev fTwoHalf : F32 := 0x40200000#32
/-- 2048.0 (R11). -/
abbrev f2048 : F32 := 0x45000000#32
/-- 22050.0, half the sample rate (R11). -/
abbrev f22050 : F32 := 0x46AC4400#32
/-- 32767.0 (R11). -/
abbrev f32767 : F32 := 0x46FFFE00#32
/-- 32768.0 (R11). -/
abbrev f32768 : F32 := 0x47000000#32
/-- -32768.0 (R12). -/
abbrev fMinus32768 : F32 := 0xC7000000#32
/-- 44100.0, the sample rate (R11). -/
abbrev f44100 : F32 := 0x472C4400#32
/-- 2^-16 (R11). -/
abbrev fTwoPowMinus16 : F32 := 0x37800000#32

/-- The sign bit (R8). -/
def fsign (a : F32) : Bool := a.getLsbD 31

/-- The exponent field, bits 30:23 (R8). -/
def fexpo (a : F32) : Nat := (a.extractLsb' 23 8).toNat

/-- The fraction field, bits 22:0 (R8). -/
def ffrac (a : F32) : Nat := (a.extractLsb' 0 23).toNat

/-- Exponent all ones and fraction not zero (R10). -/
def isNaN (a : F32) : Bool := fexpo a == 255 && ffrac a != 0

/-- An infinity of either sign. -/
def isInf (a : F32) : Bool := fexpo a == 255 && ffrac a == 0

/-- A zero of either sign. -/
def isZero (a : F32) : Bool := fexpo a == 0 && ffrac a == 0

/-- The integer significand of a finite pattern; subnormals are honoured (R8). -/
def fmant (a : F32) : Nat := if fexpo a = 0 then ffrac a else 2 ^ 23 + ffrac a

/-- The power of two that scales the significand of a finite pattern. -/
def fscale (a : F32) : Int := (max (fexpo a) 1 : Nat) - 150

/-- The signed significand of a finite pattern. -/
def fsigned (a : F32) : Int := if fsign a then -(fmant a : Int) else fmant a

/-- The pattern with the given sign and the given lower 31 bits. -/
def withSign (neg : Bool) (magnitude : Nat) : F32 := BitVec.ofNat 32 ((if neg then 2 ^ 31 else 0) + magnitude)

/-- m / 2^k rounded to the nearest integer, ties to even (k ≥ 1). -/
def shiftRoundEven (m k : Nat) : Nat :=
  let q := m / 2 ^ k
  let r := m % 2 ^ k
  if 2 * r > 2 ^ k ∨ (2 * r = 2 ^ k ∧ q % 2 = 1) then q + 1 else q

/-- ±m · 2^e rounded once to binary32, to nearest even; overflow gives an infinity of the sign (R9). The result's lower 31 bits
are (q + 149) · 2^23 + n, where 2^q is the unit of the last place and n the rounded significand: a carry out of n moves the
exponent field up by itself, and a subnormal needs no case of its own. -/
def roundTo (neg : Bool) (m : Nat) (e : Int) : F32 :=
  if m = 0 then withSign neg 0
  else
    let q := max (e + (Nat.log2 m : Int) - 23) (-149)
    let n := if q ≤ e then m * 2 ^ (e - q).toNat else shiftRoundEven m (q - e).toNat
    let bits := (q + 149).toNat * 2 ^ 23 + n
    if bits ≥ 0x7F800000 then withSign neg 0x7F800000 else withSign neg bits

/-- `fadd` (R9). A sum that is exactly zero is +0, but for (-0) + (-0) = -0. -/
def fadd (a b : F32) : F32 :=
  if isNaN a || isNaN b then canonicalNaN
  else if isInf a then (if isInf b && fsign a != fsign b then canonicalNaN else a)
  else if isInf b then b
  else
    let e := min (fscale a) (fscale b)
    let n := fsigned a * 2 ^ (fscale a - e).toNat + fsigned b * 2 ^ (fscale b - e).toNat
    if n = 0 then withSign (fsign a && fsign b) 0 else roundTo (decide (n < 0)) n.natAbs e

/-- -a: the sign bit flipped. -/
def fneg (a : F32) : F32 := a ^^^ 0x80000000#32

/-- `fsub(a,b)` is `fadd(a, -b)` (R9). -/
def fsub (a b : F32) : F32 := fadd a (fneg b)

/-- `fmul` (R9): the product's sign is the exclusive-or of the signs. -/
def fmul (a b : F32) : F32 :=
  let neg := fsign a != fsign b
  if isNaN a || isNaN b then canonicalNaN
  else if isInf a || isInf b then (if isZero a || isZero b then canonicalNaN else withSign neg 0x7F800000)
  else roundTo neg (fmant a * fmant b) (fscale a + fscale b)

/-- `fdiv` (R9). The quotient is taken to 50 more bits than the dividend, with the remainder kept as one sticky bit below them,
so that the one rounding is that of the exact quotient. -/
def fdiv (a b : F32) : F32 :=
  let neg := fsign a != fsign b
  if isNaN a || isNaN b then canonicalNaN
  else if isInf a then (if isInf b then canonicalNaN else withSign neg 0x7F800000)
  else if isInf b then withSign neg 0
  else if isZero b then (if isZero a then canonicalNaN else withSign neg 0x7F800000)
  else
    let q := fmant a * 2 ^ 50 / fmant b
    let sticky := if fmant a * 2 ^ 50 % fmant b = 0 then 0 else 1
    roundTo neg (2 * q + sticky) (fscale a - fscale b - 51)

/-- An integer that orders the patterns that are no NaN as their values; both zeros give 0. -/
def forder (a : F32) : Int :=
  let magnitude : Int := (a.extractLsb' 0 31).toNat
  if fsign a then -magnitude else magnitude

/-- `flt` (R10): false when either operand is a NaN; -0 and +0 compare equal. -/
def flt (a b : F32) : Bool := !isNaN a && !isNaN b && decide (forder a < forder b)

/-- `fle` (R10). -/
def fle (a b : F32) : Bool := !isNaN a && !isNaN b && decide (forder a ≤ forder b)

/-- `i2f` (R11). -/
def i2f (n : Int) : F32 := roundTo (decide (n < 0)) n.natAbs 0

/-- `ffloor` (R11), the largest integer not above a finite value; none for a NaN or an infinity, for which R11 does not define
it. -/
def ffloor (a : F32) : Option Int :=
  if fexpo a = 255 then none
  else some (fsigned a * 2 ^ (fscale a).toNat / 2 ^ (-fscale a).toNat)

/-- The integer part of a finite value, truncated toward zero (R12). -/
def ftrunc (a : F32) : Int := (fsigned a * 2 ^ (fscale a).toNat).tdiv (2 ^ (-fscale a).toNat)

/-- `pcm16` (R12; conflict C8 of 90_conflicts.md: saturation, no wrap): scale by 32767, saturate, truncate toward zero. -/
def pcm16 (v : F32) : BitVec 16 :=
  let w := fmul v f32767
  if isNaN w then 0
  else if fle f32767 w then 0x7FFF
  else if fle w fMinus32768 then 0x8000
  else BitVec.ofInt 16 (ftrunc w)

end Sys2Proof.Machine
end

