-- ==== Sys2Proof/Syntax.lean ====
section
/-! DEFINITION. The 38 commands of the HRE (rule R94 and spec/opcode_table.json), one constructor per row. -/

namespace Sys2Proof

/-- One command of the command set HRE-CS 1 (R94). Operands are the fields of R91 the command uses, in the assembler's order
(R98): destination first. `t` is a track field, `u` a unit field; both may name something that does not exist (R96). -/
inductive Instr where
  | nop
  | lil (rd : Reg) (imm : BitVec 16)
  | lih (rd : Reg) (imm : BitVec 16)
  | csrr (rd : Reg) (t : BitVec 4) (csr : BitVec 8)
  | csrw (t : BitVec 4) (csr : BitVec 8) (rs : Reg)
  | ldm (rd : Reg) (space : BitVec 4) (ra : Reg) (post : Bool)
  | stm (space : BitVec 4) (ra : Reg) (post : Bool) (rv : Reg)
  | cvtS16 (rd rs : Reg)
  | engStart
  | engStop
  | engPause
  | engResume
  | oscSetf (t : BitVec 4) (rs : Reg)
  | oscTick (rd : Reg) (t : BitVec 4)
  | smpSets (t : BitVec 4) (rb rl : Reg)
  | smpTrig (t : BitVec 4)
  | smpTick (rd : Reg) (t : BitVec 4)
  | wtSeal (n : BitVec 7)
  | apfProc (rd : Reg) (t u : BitVec 4) (rs : Reg)
  | apfMute (t u : BitVec 4)
  | hpfProc (rd : Reg) (t u : BitVec 4) (rs : Reg)
  | hpfSetc (t u : BitVec 4) (rs : Reg)
  | dlyIn (t : BitVec 4) (rs : Reg)
  | dlyOut (rd : Reg) (t : BitVec 4)
  | dlySett (t : BitVec 4) (rs : Reg)
  | revIn (t : BitVec 4) (rs : Reg)
  | revProc (rd : Reg) (t : BitVec 4)
  | revRst (t : BitVec 4)
  | seqTick (t : BitVec 4)
  | seqRnds (t : BitVec 4)
  | seqRndr (t : BitVec 4)
  | voxTrig (t : BitVec 4) (note : BitVec 8) (accent slide : Bool)
  | voxOff (t : BitVec 4)
  | voxTick (rd : Reg) (t : BitVec 4)
  | mixTrk (t : BitVec 4)
  | mixPan (rd : Reg) (t : BitVec 4) (rs : Reg)
  | mixEmit
  | mixCvt (rd rs : Reg)
  deriving DecidableEq, Repr

end Sys2Proof
end

