-- ==== Sys2Proof/WellFormed.lean ====
section
/-! DEFINITION. Which terms of `Instr` are commands. Every operand field admits every value of its width, with one
exception: a global control-register index needs a zero track field (R94, R123, R124). -/

namespace Sys2Proof

/-- A control-register index is global when its bit 7 is set (R25). -/
def csrIsGlobal (csr : BitVec 8) : Bool := csr.getLsbD 7

/-- The must-be-zero track field of CSRR and CSRW with a global index (R94, R123, R124). -/
def csrTrackOk (t : BitVec 4) (csr : BitVec 8) : Bool := !csrIsGlobal csr || t == 0#4

/-- The term is one of the command words of R94. -/
def WellFormed (i : Instr) : Bool :=
  match i with
  | .csrr _ t csr => csrTrackOk t csr
  | .csrw t csr _ => csrTrackOk t csr
  | .nop | .lil _ _ | .lih _ _ | .ldm _ _ _ _ | .stm _ _ _ _ | .cvtS16 _ _ | .engStart | .engStop | .engPause | .engResume
  | .oscSetf _ _ | .oscTick _ _ | .smpSets _ _ _ | .smpTrig _ | .smpTick _ _ | .wtSeal _ | .apfProc _ _ _ _ | .apfMute _ _
  | .hpfProc _ _ _ _ | .hpfSetc _ _ _ | .dlyIn _ _ | .dlyOut _ _ | .dlySett _ _ | .revIn _ _ | .revProc _ _ | .revRst _
  | .seqTick _ | .seqRnds _ | .seqRndr _ | .voxTrig _ _ _ _ | .voxOff _ | .voxTick _ _ | .mixTrk _ | .mixPan _ _ _ | .mixEmit
  | .mixCvt _ _ => true

end Sys2Proof
end

