-- ==== Sys2Proof/Decode.lean ====
section
/-! DEFINITION. The command decoder of rules R90 to R95, total on 32-bit words and rejecting by name, and after it the
encoder. Both go through the seven fields of rule R91; format FI's `a` is the field u and its imm16 the fields rd, rs, rt, fn. -/

namespace Sys2Proof

/-- The fields of a command word (R91). -/
structure Fields where
  op : BitVec 8
  t : BitVec 4
  u : BitVec 4
  rd : BitVec 4
  rs : BitVec 4
  rt : BitVec 4
  fn : BitVec 4
  deriving DecidableEq, Repr

/-- Cut a command word into its fields (R91). -/
def fieldsOf (w : Word) : Fields where
  op := w.extractLsb' 24 8
  t := w.extractLsb' 20 4
  u := w.extractLsb' 16 4
  rd := w.extractLsb' 12 4
  rs := w.extractLsb' 8 4
  rt := w.extractLsb' 4 4
  fn := w.extractLsb' 0 4

/-- Lay the fields out in a command word (R91). -/
def wordOf (f : Fields) : Word :=
  (f.op ++ f.t ++ f.u ++ f.rd ++ f.rs ++ f.rt ++ f.fn : BitVec 32)

/-- Why a word is no command (R95). Both causes raise ILLCMD. -/
inductive DecodeError where
  /-- The opcode is none of the 38 of R94. -/
  | undefinedOpcode
  /-- A bit is set in a field the command does not use. -/
  | reservedField
  deriving DecidableEq, Repr

/-- Every listed field is zero, or the word is illegal (R95). -/
def requireZero (unused : List (BitVec 4)) (i : Instr) : Except DecodeError Instr :=
  if unused.all (fun x => x == 0#4) then .ok i else .error .reservedField

/-- imm16 of format FI (R91). -/
def immOf (f : Fields) : BitVec 16 := (f.rd ++ f.rs ++ f.rt ++ f.fn : BitVec 16)

/-- imm16[7:0]: a CSR index or a note (R93). -/
def immLowOf (f : Fields) : BitVec 8 := (f.rt ++ f.fn : BitVec 8)

/-- CSRR and CSRW with a global index have a must-be-zero track field (R94, R123, R124). -/
def requireCsrTrack (f : Fields) (i : Instr) : Except DecodeError Instr :=
  if csrTrackOk f.t (immLowOf f) then requireZero [f.rd, f.rs] i else .error .reservedField

/-- WT.SEAL uses imm16[6:0]; imm16[15:7] must be zero (R93). -/
def decodeWtSeal (f : Fields) : Except DecodeError Instr :=
  if f.rt.getLsbD 3 then .error .reservedField
  else requireZero [f.t, f.u, f.rd, f.rs] (.wtSeal (f.rt.extractLsb' 0 3 ++ f.fn))

/-- VOX.TRIG uses imm16[9:0]; imm16[15:10] must be zero (R93). -/
def decodeVoxTrig (f : Fields) : Except DecodeError Instr :=
  if f.rs.extractLsb' 2 2 == 0#2 then
    requireZero [f.u, f.rd] (.voxTrig f.t (immLowOf f) (f.rs.getLsbD 0) (f.rs.getLsbD 1))
  else .error .reservedField

/-- LDM and STM define only bit 0 of fn, the post-increment; fn[3:1] must be zero (R91, R125, R126). -/
def requirePost (f : Fields) (unused : List (BitVec 4)) (i : Instr) : Except DecodeError Instr :=
  if f.fn.extractLsb' 1 3 == 0#3 then requireZero unused i else .error .reservedField

/-- The command the fields name (R94, R95). -/
def decodeFields (f : Fields) : Except DecodeError Instr :=
  match f.op.toNat with
  | 0x00 => requireZero [f.t, f.u, f.rd, f.rs, f.rt, f.fn] .nop
  | 0x01 => requireZero [f.t] (.lil f.u (immOf f))
  | 0x02 => requireZero [f.t] (.lih f.u (immOf f))
  | 0x03 => requireCsrTrack f (.csrr f.u f.t (immLowOf f))
  | 0x04 => requireCsrTrack f (.csrw f.t (immLowOf f) f.u)
  | 0x05 => requirePost f [f.t, f.rt] (.ldm f.rd f.u f.rs (f.fn.getLsbD 0))
  | 0x06 => requirePost f [f.t, f.rd] (.stm f.u f.rs (f.fn.getLsbD 0) f.rt)
  | 0x07 => requireZero [f.t, f.u, f.rt, f.fn] (.cvtS16 f.rd f.rs)
  | 0x08 => requireZero [f.t, f.u, f.rd, f.rs, f.rt, f.fn] .engStart
  | 0x09 => requireZero [f.t, f.u, f.rd, f.rs, f.rt, f.fn] .engStop
  | 0x0A => requireZero [f.t, f.u, f.rd, f.rs, f.rt, f.fn] .engPause
  | 0x0B => requireZero [f.t, f.u, f.rd, f.rs, f.rt, f.fn] .engResume
  | 0x10 => requireZero [f.u, f.rd, f.rt, f.fn] (.oscSetf f.t f.rs)
  | 0x11 => requireZero [f.u, f.rs, f.rt, f.fn] (.oscTick f.rd f.t)
  | 0x12 => requireZero [f.u, f.rd, f.fn] (.smpSets f.t f.rs f.rt)
  | 0x13 => requireZero [f.u, f.rd, f.rs, f.rt, f.fn] (.smpTrig f.t)
  | 0x14 => requireZero [f.u, f.rs, f.rt, f.fn] (.smpTick f.rd f.t)
  | 0x15 => decodeWtSeal f
  | 0x20 => requireZero [f.rt, f.fn] (.apfProc f.rd f.t f.u f.rs)
  | 0x21 => requireZero [f.rd, f.rs, f.rt, f.fn] (.apfMute f.t f.u)
  | 0x22 => requireZero [f.rt, f.fn] (.hpfProc f.rd f.t f.u f.rs)
  | 0x23 => requireZero [f.rd, f.rt, f.fn] (.hpfSetc f.t f.u f.rs)
  | 0x30 => requireZero [f.u, f.rd, f.rt, f.fn] (.dlyIn f.t f.rs)
  | 0x31 => requireZero [f.u, f.rs, f.rt, f.fn] (.dlyOut f.rd f.t)
  | 0x32 => requireZero [f.u, f.rd, f.rt, f.fn] (.dlySett f.t f.rs)
  | 0x38 => requireZero [f.u, f.rd, f.rt, f.fn] (.revIn f.t f.rs)
  | 0x39 => requireZero [f.u, f.rs, f.rt, f.fn] (.revProc f.rd f.t)
  | 0x3A => requireZero [f.u, f.rd, f.rs, f.rt, f.fn] (.revRst f.t)
  | 0x40 => requireZero [f.u, f.rd, f.rs, f.rt, f.fn] (.seqTick f.t)
  | 0x41 => requireZero [f.u, f.rd, f.rs, f.rt, f.fn] (.seqRnds f.t)
  | 0x42 => requireZero [f.u, f.rd, f.rs, f.rt, f.fn] (.seqRndr f.t)
  | 0x48 => decodeVoxTrig f
  | 0x49 => requireZero [f.u, f.rd, f.rs, f.rt, f.fn] (.voxOff f.t)
  | 0x4A => requireZero [f.u, f.rs, f.rt, f.fn] (.voxTick f.rd f.t)
  | 0x50 => requireZero [f.u, f.rd, f.rs, f.rt, f.fn] (.mixTrk f.t)
  | 0x51 => requireZero [f.u, f.rt, f.fn] (.mixPan f.rd f.t f.rs)
  | 0x52 => requireZero [f.t, f.u, f.rd, f.rs, f.rt, f.fn] .mixEmit
  | 0x53 => requireZero [f.t, f.u, f.rt, f.fn] (.mixCvt f.rd f.rs)
  | _ => .error .undefinedOpcode

/-- The decoder: a word is one of the 38 commands or illegal (R95). -/
def decode (w : Word) : Except DecodeError Instr := decodeFields (fieldsOf w)

/-- The decoder on a word numbered as spec/opcode_table.json numbers it; the table gives every row 32 bits, and a bit above
`nbits` is 0. -/
def decodeTableWord (nbits w : Nat) : Option Instr :=
  match decode (BitVec.ofNat 32 (w % 2 ^ nbits)) with
  | .ok i => some i
  | .error _ => none

/-- Format FI: opcode, t, a, imm16 (R92). -/
def fiFields (op : BitVec 8) (t a : BitVec 4) (imm : BitVec 16) : Fields where
  op := op
  t := t
  u := a
  rd := imm.extractLsb' 12 4
  rs := imm.extractLsb' 8 4
  rt := imm.extractLsb' 4 4
  fn := imm.extractLsb' 0 4

/-- Format F0: only an opcode (R92). -/
def f0Fields (op : BitVec 8) : Fields := ⟨op, 0, 0, 0, 0, 0, 0⟩

/-- The post-increment bit in fn[0] (R91). -/
def postField (post : Bool) : BitVec 4 := (0#3 ++ BitVec.ofBool post : BitVec 4)

/-- The fields of a command's word, every unused field zero (R94). -/
def encodeFields (i : Instr) : Fields :=
  match i with
  | .nop => f0Fields 0x00
  | .lil rd imm => fiFields 0x01 0 rd imm
  | .lih rd imm => fiFields 0x02 0 rd imm
  | .csrr rd t csr => fiFields 0x03 t rd (0#8 ++ csr)
  | .csrw t csr rs => fiFields 0x04 t rs (0#8 ++ csr)
  | .ldm rd space ra post => ⟨0x05, 0, space, rd, ra, 0, postField post⟩
  | .stm space ra post rv => ⟨0x06, 0, space, 0, ra, rv, postField post⟩
  | .cvtS16 rd rs => ⟨0x07, 0, 0, rd, rs, 0, 0⟩
  | .engStart => f0Fields 0x08
  | .engStop => f0Fields 0x09
  | .engPause => f0Fields 0x0A
  | .engResume => f0Fields 0x0B
  | .oscSetf t rs => ⟨0x10, t, 0, 0, rs, 0, 0⟩
  | .oscTick rd t => ⟨0x11, t, 0, rd, 0, 0, 0⟩
  | .smpSets t rb rl => ⟨0x12, t, 0, 0, rb, rl, 0⟩
  | .smpTrig t => ⟨0x13, t, 0, 0, 0, 0, 0⟩
  | .smpTick rd t => ⟨0x14, t, 0, rd, 0, 0, 0⟩
  | .wtSeal n => fiFields 0x15 0 0 (0#9 ++ n)
  | .apfProc rd t u rs => ⟨0x20, t, u, rd, rs, 0, 0⟩
  | .apfMute t u => ⟨0x21, t, u, 0, 0, 0, 0⟩
  | .hpfProc rd t u rs => ⟨0x22, t, u, rd, rs, 0, 0⟩
  | .hpfSetc t u rs => ⟨0x23, t, u, 0, rs, 0, 0⟩
  | .dlyIn t rs => ⟨0x30, t, 0, 0, rs, 0, 0⟩
  | .dlyOut rd t => ⟨0x31, t, 0, rd, 0, 0, 0⟩
  | .dlySett t rs => ⟨0x32, t, 0, 0, rs, 0, 0⟩
  | .revIn t rs => ⟨0x38, t, 0, 0, rs, 0, 0⟩
  | .revProc rd t => ⟨0x39, t, 0, rd, 0, 0, 0⟩
  | .revRst t => ⟨0x3A, t, 0, 0, 0, 0, 0⟩
  | .seqTick t => ⟨0x40, t, 0, 0, 0, 0, 0⟩
  | .seqRnds t => ⟨0x41, t, 0, 0, 0, 0, 0⟩
  | .seqRndr t => ⟨0x42, t, 0, 0, 0, 0, 0⟩
  | .voxTrig t note accent slide => fiFields 0x48 t 0 (0#6 ++ BitVec.ofBool slide ++ BitVec.ofBool accent ++ note)
  | .voxOff t => ⟨0x49, t, 0, 0, 0, 0, 0⟩
  | .voxTick rd t => ⟨0x4A, t, 0, rd, 0, 0, 0⟩
  | .mixTrk t => ⟨0x50, t, 0, 0, 0, 0, 0⟩
  | .mixPan rd t rs => ⟨0x51, t, 0, rd, rs, 0, 0⟩
  | .mixEmit => f0Fields 0x52
  | .mixCvt rd rs => ⟨0x53, 0, 0, rd, rs, 0, 0⟩

/-- The command word of a command (R92, R94); ERRINFO records it when the command is rejected (R261). -/
def encode (i : Instr) : Word := wordOf (encodeFields i)

end Sys2Proof
end

