-- ==== Sys2Proof/Machine/Image.lean ====
section
/-! DEFINITION. The reset image of the note-to-frequency table FT (rule R293), its words copied from the spec's table. -/

namespace Sys2Proof.Machine

open Sys2Proof

/-- FT[0] to FT[31] (R293). -/
def ftRows0 : List Word :=
  [0x4102D013, 0x410A9760, 0x4112D517, 0x411B9041, 0x4124D054, 0x412E9D37, 0x4138FF49, 0x4143FF6A,
   0x414FA700, 0x415C0000, 0x416914F6, 0x4176F110, 0x4182D013, 0x418A9760, 0x4192D517, 0x419B9041,
   0x41A4D054, 0x41AE9D37, 0x41B8FF49, 0x41C3FF6A, 0x41CFA700, 0x41DC0000, 0x41E914F6, 0x41F6F110,
   0x4202D013, 0x420A9760, 0x4212D517, 0x421B9041, 0x4224D054, 0x422E9D37, 0x4238FF49, 0x4243FF6A]

/-- FT[32] to FT[63] (R293). -/
def ftRows32 : List Word :=
  [0x424FA700, 0x425C0000, 0x426914F6, 0x4276F110, 0x4282D013, 0x428A9760, 0x4292D517, 0x429B9041,
   0x42A4D054, 0x42AE9D37, 0x42B8FF49, 0x42C3FF6A, 0x42CFA700, 0x42DC0000, 0x42E914F6, 0x42F6F110,
   0x4302D013, 0x430A9760, 0x4312D517, 0x431B9041, 0x4324D054, 0x432E9D37, 0x4338FF49, 0x4343FF6A,
   0x434FA700, 0x435C0000, 0x436914F6, 0x4376F110, 0x4382D013, 0x438A9760, 0x4392D517, 0x439B9041]

/-- FT[64] to FT[95] (R293). -/
def ftRows64 : List Word :=
  [0x43A4D054, 0x43AE9D37, 0x43B8FF49, 0x43C3FF6A, 0x43CFA700, 0x43DC0000, 0x43E914F6, 0x43F6F110,
   0x4402D013, 0x440A9760, 0x4412D517, 0x441B9041, 0x4424D054, 0x442E9D37, 0x4438FF49, 0x4443FF6A,
   0x444FA700, 0x445C0000, 0x446914F6, 0x4476F110, 0x4482D013, 0x448A9760, 0x4492D517, 0x449B9041,
   0x44A4D054, 0x44AE9D37, 0x44B8FF49, 0x44C3FF6A, 0x44CFA700, 0x44DC0000, 0x44E914F6, 0x44F6F110]

/-- FT[96] to FT[127] (R293). -/
def ftRows96 : List Word :=
  [0x4502D013, 0x450A9760, 0x4512D517, 0x451B9041, 0x4524D054, 0x452E9D37, 0x4538FF49, 0x4543FF6A,
   0x454FA700, 0x455C0000, 0x456914F6, 0x4576F110, 0x4582D013, 0x458A9760, 0x4592D517, 0x459B9041,
   0x45A4D054, 0x45AE9D37, 0x45B8FF49, 0x45C3FF6A, 0x45CFA700, 0x45DC0000, 0x45E914F6, 0x45F6F110,
   0x4602D013, 0x460A9760, 0x4612D517, 0x461B9041, 0x4624D054, 0x462E9D37, 0x4638FF49, 0x4643FF6A]

/-- The reset image of FT, 128 words (R293). -/
def ftImage : List Word := ftRows0 ++ ftRows32 ++ ftRows64 ++ ftRows96

end Sys2Proof.Machine
end

