-- ==== Sys2Proof/Machine/State.lean ====
section
/-! DEFINITION. The state of the HRE (rule R20): operand registers, render position, status and error registers, counters and
accumulators, the per-track registers, the memory spaces; beside them the event history of R242 and the inputs that have not
arrived yet, both the model's own. Then the reasons a step can stop, and the state after reset (R291, R292). -/

namespace Sys2Proof.Machine

open Sys2Proof

/-- Why a step stops. The spec gives the hardware no trap and every reachable state a next state (R260, R307); these faults are
raised only in states that no run from reset reaches, where a unit operation would touch an element that does not exist and
`MemRead` is not defined (R60, R62). All three are safe; assumption 4. -/
inductive Fault where
  /-- OSC.TICK: the table position is outside [0, WTLEN), so the four samples are not all inside the selected table (R141, R148
  rule it out). Safe. -/
  | phaseOutsideTable
  /-- SMP.TICK: SBASE + SPOS is not below SMEMLEN (R145 rules it out). Safe. -/
  | sampleOutsideMemory
  /-- APF.PROC: APIDX[u] is not below REVLEN[u] (R160 rules it out). Safe. -/
  | stageIndexOutsideBuffer
  deriving DecidableEq, Repr

/-- Why a step is refused. No meaning of this model answers with a refusal. -/
inductive Refusal where
  /-- Raised by an arm of `exec` that has no meaning yet; every arm has one. Safe. -/
  | notModelled (mnemonic : String)
  deriving DecidableEq, Repr

/-- Memory: (address, byte) pairs in one canonical form, addresses strictly rising and no entry equal to what an unlisted
address reads as (Machine/Ops.lean). The eleven spaces of R60 lie one after another in it, `Space.base` says where. -/
abbrev Memory := List Host.Cell

/-- The oscillator kind a track's voice uses: "a small closed enum of voice kinds" (R31). -/
inductive VoiceKind where
  | wavetable
  | sampler
  deriving DecidableEq, Repr

/-- One high-pass unit of a track (R40). -/
structure HighPass where
  /-- HCUT: cutoff in Hz. -/
  cut : F32
  /-- HCOEF: the recursion coefficient. -/
  coef : F32
  /-- HX1: the previous input. -/
  x1 : F32
  /-- HY1: the previous output. -/
  y1 : F32
  deriving DecidableEq, Repr

/-- The registers of one track, in the order of R28. APFB and APLEN are constants (R41) and stand in no field. -/
structure Track where
  /-- VOL (R29). -/
  vol : F32
  /-- PAN (R30). -/
  pan : F32
  /-- KIND (R31). -/
  kind : VoiceKind
  /-- ROOT, 0..127 (R31). -/
  root : BitVec 7
  /-- DSEND (R32). -/
  dsend : F32
  /-- RSEND (R32). -/
  rsend : F32
  /-- GLIDE, 1..65535 (R32). -/
  glide : BitVec 16
  /-- SEQVOL (R32). -/
  seqvol : F32
  /-- BPM, 1..65535 (R33). -/
  bpm : BitVec 16
  /-- SPS, samples per step (R33). -/
  sps : Word
  /-- STEP, 0..15 (R34). -/
  step : BitVec 4
  /-- SCNT (R34). -/
  scnt : Word
  /-- GATE (R35). -/
  gate : Bool
  /-- AMP (R35). -/
  amp : F32
  /-- FCUR (R35). -/
  fcur : F32
  /-- FTGT (R35). -/
  ftgt : F32
  /-- GINC (R35). -/
  ginc : F32
  /-- GCNT, 0..65535 (R35). -/
  gcnt : BitVec 16
  /-- OFREQ (R36). -/
  ofreq : F32
  /-- OINC (R36). -/
  oinc : F32
  /-- OPHASE (R36). -/
  ophase : F32
  /-- OWTI, 0..127 (R36). -/
  owti : BitVec 7
  /-- SBASE (R37). -/
  sbase : Word
  /-- SLEN (R37). -/
  slen : Word
  /-- SPOS (R37). -/
  spos : Word
  /-- DLVL (R38). -/
  dlvl : F32
  /-- DFB (R38). -/
  dfb : F32
  /-- DSPR (R38). -/
  dspr : F32
  /-- DLAG (R39). -/
  dlag : Word
  /-- DWP, the write cursor, 0..CAP-1 (R39). -/
  dwp : Fin Config.CAP
  /-- DRP, the read cursor, Q16.16 (R39). -/
  drp : Word
  /-- DRATE, Q16.16 (R39). -/
  drate : Word
  /-- DCNT (R39). -/
  dcnt : Word
  /-- HCUT, HCOEF, HX1, HY1 of units 0..2 (R40). -/
  hpf : Vector HighPass Config.NHPF
  /-- RBUS (R41). -/
  rbus : F32
  /-- APIDX[0..7], each below REVLEN[u], at most 1023 (R4, R41). -/
  apidx : Vector (BitVec 10) Config.NSTAGE
  deriving DecidableEq, Repr

/-- STATUS bits 5..0 (R23); bits 31:6 read as zero. -/
structure Status where
  running : Bool
  paused : Bool
  active : Bool
  fatal : Bool
  devok : Bool
  capok : Bool
  deriving DecidableEq, Repr

/-- RPOS = (pbuf, pframe, slot), the position of the render agent in its schedule (R22). -/
structure RenderPos where
  pbuf : Fin Config.NBUF
  pframe : Fin Config.BUFLEN
  slot : Fin Config.NSLOT
  deriving DecidableEq, Repr

/-- One event of the history the sinks see (R242). -/
inductive Event where
  /-- A handed-off buffer: its index, its 4·BUFLEN bytes, and which sinks were offered them (R239). -/
  | emit (buf : Fin Config.NBUF) (bytes : List Byte) (offeredDev offeredCap : Bool)
  /-- The end of a run: the byte count, and whether the capture sink was still viable (R240). -/
  | dispose (bytecnt : Word) (capok : Bool)
  deriving DecidableEq, Repr

/-- What moves next (R70: one total order of the agents' steps; R290: reset may come at any time). -/
inductive Turn where
  /-- The host writes this word to the command port (R13, R90). -/
  | command (w : Word)
  /-- The render agent takes a step, if one is enabled (R237). -/
  | agent
  /-- The reset input (R290). -/
  | reset
  deriving DecidableEq, Repr

/-- The machine's inputs that have not arrived yet: the MODEL's own fields, no state of the hardware (R13, R20); assumptions 1
and 2. -/
structure Inputs where
  /-- Who moves in the next steps, in order; past its end only the render agent moves. -/
  turns : List Turn
  /-- The environment's next answers, in the order of the draws. -/
  answers : List (BitVec 7)
  /-- How many answers were drawn past the end of `answers`; each is the free value `Config.answer` of this counter. -/
  drawn : Nat
  deriving DecidableEq, Repr

/-- The whole state (R20). -/
structure State where
  /-- X0..X15 (R21). -/
  x : Vector Word 16
  /-- RPOS (R22). -/
  rpos : RenderPos
  /-- STATUS (R23). -/
  status : Status
  /-- ERR bits 10..0 (R24); bits 31:11 read as zero. -/
  err : BitVec 11
  /-- ERRINFO (R24). -/
  errinfo : Word
  /-- BUFCNT (R27). -/
  bufcnt : Word
  /-- BYTECNT (R27). -/
  bytecnt : Word
  /-- MACCL (R27). -/
  maccl : F32
  /-- MACCR (R27). -/
  maccr : F32
  /-- The per-track registers (R28). -/
  tracks : Vector Track Config.NTRK
  /-- The eleven memory spaces (R60). -/
  mem : Memory
  /-- The event history, oldest first: a ghost (R242). -/
  events : List Event
  /-- The inputs to come: the model's own. -/
  inputs : Inputs
  deriving DecidableEq, Repr

/-- A high-pass unit after reset: cutoff and coefficient as given, history +0.0 (R40, R291). -/
def HighPass.reset (cut coef : F32) : HighPass := ⟨cut, coef, 0, 0⟩

/-- A track's registers after reset (R28, R291). -/
def Track.reset : Track where
  vol := 0x3F800000
  pan := 0
  kind := .wavetable
  root := 48
  dsend := 0
  rsend := 0
  glide := 1024
  seqvol := 0x3F800000
  bpm := 120
  sps := 5512
  step := 0
  scnt := 0
  gate := false
  amp := 0
  fcur := 0
  ftgt := 0
  ginc := 0
  gcnt := 0
  ofreq := 0
  oinc := 0
  ophase := 0
  owti := 0
  sbase := 0
  slen := 0
  spos := 0
  dlvl := 0x3F800000
  dfb := 0x3F000000
  dspr := 0
  dlag := 22050
  dwp := 0
  drp := 0x56220000
  drate := 0x00010000
  dcnt := 0
  hpf := #v[HighPass.reset 0x42C80000 0x3F7C6764, HighPass.reset 0x42C80000 0x3F7C6764, HighPass.reset 0x41A00000 0x3F7F45CA]
  rbus := 0
  apidx := Vector.replicate Config.NSTAGE 0

/-- STATUS after reset: IDLE (R291). -/
def Status.reset : Status := ⟨false, false, false, false, false, false⟩

/-- RPOS after reset (R22, R291). -/
def RenderPos.reset : RenderPos := ⟨0, 0, 0⟩

/-- The machine right after reset (R290 to R292): every register at the value R291 gives, every memory element at its reset
contents (nothing listed), no event, no input pending. -/
def State.reset : State where
  x := Vector.replicate 16 0
  rpos := RenderPos.reset
  status := Status.reset
  err := 0
  errinfo := 0
  bufcnt := 0
  bytecnt := 0
  maccl := 0
  maccr := 0
  tracks := Vector.replicate Config.NTRK Track.reset
  mem := []
  events := []
  inputs := ⟨[], [], 0⟩

end Sys2Proof.Machine
end

