-- ==== Sys2Proof/Machine/Ops.lean ====
section
/-! DEFINITION. The named operations over memory, tracks and the environment's answers that every meaning shares, and the
rejection of a command (rule R261), which is this hardware's taking of an exception, with its acknowledgement (R268). -/

namespace Sys2Proof.Machine

open Sys2Proof

/-- The result of one command or step. -/
abbrev Result := Host.Outcome State Fault Refusal

/-- A unit operation's answer as a step's outcome. -/
def resultOf (r : Except Fault State) : Result :=
  match r with
  | .ok s => .next s
  | .error e => .fault e

/-! ## Memory: bytes -/

/-- The eleven memory spaces, numbered 0 to 10 (R60). -/
inductive Space where
  | wt | ft | sm | pn | pp | pa | ps | dl | dr | ap | pb
  deriving DecidableEq, Repr

/-- The number of a space (R60). -/
def Space.index (sp : Space) : Nat :=
  match sp with
  | .wt => 0 | .ft => 1 | .sm => 2 | .pn => 3 | .pp => 4 | .pa => 5 | .ps => 6 | .dl => 7 | .dr => 8 | .ap => 9 | .pb => 10

/-- The bytes of one space in `Memory` begin here. The spaces are disjoint (R60): a space takes less than 2^34 bytes. -/
def Space.base (sp : Space) : Nat := sp.index * 2 ^ 34

/-- Bytes of one element: four for a binary32 value or a frame word, one for a note or a flag (R60, R73). -/
def Space.width (sp : Space) : Nat :=
  match sp with
  | .pn | .pp | .pa | .ps => 1
  | .wt | .ft | .sm | .dl | .dr | .ap | .pb => 4

/-- The address in `Memory` of the first byte of element `a` of a space. -/
def Space.cell (sp : Space) (a : Nat) : Nat := sp.base + sp.width * a

/-- What a byte that is not listed reads as: the reset contents of R292 and R293. FT holds its image, every pause flag is 1,
everything else is 0. -/
def unlisted (a : Nat) : Byte :=
  if a / 2 ^ 34 = 1 then (ftImage.getD (a % 2 ^ 34 / 4) 0).extractLsb' (8 * (a % 4)) 8
  else if a / 2 ^ 34 = 4 ∧ a % 2 ^ 34 < Config.NTRK * Config.NSTEP then 1
  else 0

/-- One byte of memory. -/
def Memory.byte (m : Memory) (a : Nat) : Byte :=
  match m with
  | [] => unlisted a
  | c :: rest => if a = c.1 then c.2 else Memory.byte rest a

/-- Memory without an entry for the address. -/
def Memory.erase (m : Memory) (a : Nat) : Memory := m.filter (fun c => c.1 != a)

/-- Memory with an entry put in at its place by address. -/
def Memory.insert (m : Memory) (c : Host.Cell) : Memory :=
  match m with
  | [] => [c]
  | d :: rest => if c.1 < d.1 then c :: d :: rest else d :: Memory.insert rest c

/-- Write one byte; the canonical form stays. -/
def Memory.setByte (m : Memory) (a : Nat) (v : Byte) : Memory :=
  if v = unlisted a then m.erase a else (m.erase a).insert (a, v)

/-- The canonical form: addresses strictly rising, no entry equal to what an unlisted address reads as. -/
abbrev Memory.wf (m : Memory) : Prop :=
  m.Pairwise (fun c d => c.1 < d.1) ∧ ∀ c ∈ m, c.2 ≠ unlisted c.1

/-- Put `n` bytes from address `lo` on back to their reset contents. For DL, DR and AP those are +0.0 (R292), so this is how a
whole buffer is zeroed in one step (R162, R294). -/
def Memory.restore (m : Memory) (lo n : Nat) : Memory := m.filter (fun c => decide (c.1 < lo) || decide (lo + n ≤ c.1))

/-! ## Memory: elements -/

/-- Four bytes as a word, least significant byte at the lowest address (R71; for a space with no byte view the order cannot be
seen, assumption 3). -/
def Memory.word (m : Memory) (a : Nat) : Word :=
  (m.byte (a + 3) ++ m.byte (a + 2) ++ m.byte (a + 1) ++ m.byte a : BitVec 32)

/-- Write a word as four bytes, least significant first. -/
def Memory.setWord (m : Memory) (a : Nat) (v : Word) : Memory :=
  (((m.setByte a (v.extractLsb' 0 8)).setByte (a + 1) (v.extractLsb' 8 8)).setByte (a + 2) (v.extractLsb' 16 8)).setByte (a + 3)
    (v.extractLsb' 24 8)

/-- The word element `a` of a space whose elements are words. -/
def State.wordAt (s : State) (sp : Space) (a : Nat) : Word := s.mem.word (sp.cell a)

/-- Write a word element. -/
def State.setWordAt (s : State) (sp : Space) (a : Nat) (v : Word) : State := { s with mem := s.mem.setWord (sp.cell a) v }

/-- The byte element `a` of a pattern space (a note, or a flag in bit 0). -/
def State.byteAt (s : State) (sp : Space) (a : Nat) : Byte := s.mem.byte (sp.cell a)

/-- Write a byte element. -/
def State.setByteAt (s : State) (sp : Space) (a : Nat) (v : Byte) : State := { s with mem := s.mem.setByte (sp.cell a) v }

/-- Put `n` word elements from element `a` on back to +0.0 (used on DL, DR and AP only, whose reset contents are +0.0). -/
def State.zeroWords (s : State) (sp : Space) (a n : Nat) : State := { s with mem := s.mem.restore (sp.cell a) (4 * n) }

/-- `MemRead`, with the conversion of R61: a note is sign-extended, a flag zero-extended, a word unchanged (R62). -/
def State.memRead (s : State) (sp : Space) (a : Nat) : Word :=
  match sp with
  | .pn => (s.byteAt sp a).signExtend 32
  | .pp | .pa | .ps => ((s.byteAt sp a).extractLsb' 0 1).setWidth 32
  | .wt | .ft | .sm | .dl | .dr | .ap | .pb => s.wordAt sp a

/-- `MemWrite`, with the conversion of R61: a note keeps bits 7:0, a flag bit 0 (R63). -/
def State.memWrite (s : State) (sp : Space) (a : Nat) (v : Word) : State :=
  match sp with
  | .pn => s.setByteAt sp a (v.extractLsb' 0 8)
  | .pp | .pa | .ps => s.setByteAt sp a ((v.extractLsb' 0 1).setWidth 8)
  | .wt | .ft | .sm | .dl | .dr | .ap | .pb => s.setWordAt sp a v

/-- An element address is in range when its decoded indices are inside the bounds of R60. -/
def Space.inRange (sp : Space) (a : Nat) : Bool :=
  match sp with
  | .wt => decide (a / Config.WTSTRIDE < Config.NWT ∧ a % Config.WTSTRIDE < Config.WTPAD)
  | .ft => decide (a < 128)
  | .sm => decide (a < Config.SMEMLEN)
  | .pn | .pp | .pa | .ps => decide (a / 16 < Config.NTRK)
  | .dl | .dr => decide (a / 65536 < Config.NTRK ∧ a % 65536 < Config.CAP)
  | .ap => decide (a / 8192 < Config.NTRK ∧ a % 1024 < Config.REVLEN (Fin.ofNat Config.NSTAGE (a / 1024 % 8)))
  | .pb => decide (a < Config.NBUF * Config.BUFLEN)

/-- Element k of wavetable n (R60, R64). -/
def wtAddr (n : BitVec 7) (k : Nat) : Nat := n.toNat * Config.WTSTRIDE + k

/-- Pattern slot k of track t (R60, R66). -/
def patternAddr (t : Fin Config.NTRK) (k : BitVec 4) : Nat := t.val * 16 + k.toNat

/-- Delay ring slot i of track t (R60, R68). -/
def ringAddr (t : Fin Config.NTRK) (i : Nat) : Nat := t.val * 65536 + i

/-- Element i of all-pass stage u of track t (R60, R69). -/
def stageAddr (t : Fin Config.NTRK) (u : Fin Config.NSTAGE) (i : Nat) : Nat := (t.val * 8 + u.val) * 1024 + i

/-- Frame f of PCM buffer b (R60, R71). -/
def frameAddr (b : Fin Config.NBUF) (f : Fin Config.BUFLEN) : Nat := b.val * Config.BUFLEN + f.val

/-- FT[n]: the frequency of MIDI note n (R65). -/
def State.ft (s : State) (n : Nat) : F32 := s.wordAt .ft n

/-! ## Tracks -/

/-- The registers of track t. -/
def State.track (s : State) (t : Fin Config.NTRK) : Track := s.tracks[t.val]

/-- Replace the registers of track t. -/
def State.setTrack (s : State) (t : Fin Config.NTRK) (tr : Track) : State := { s with tracks := s.tracks.set t.val tr }

/-- Replace high-pass unit u of a track (R40). -/
def Track.setHpf (tr : Track) (u : Fin Config.NHPF) (h : HighPass) : Track := { tr with hpf := tr.hpf.set u.val h }

/-- Replace APIDX[u] of a track (R41). -/
def Track.setApidx (tr : Track) (u : Fin Config.NSTAGE) (i : BitVec 10) : Track := { tr with apidx := tr.apidx.set u.val i }

/-! ## The environment's answers -/

/-- The next answer of the environment: the head of the script, or the free value past its end (R6 `draw`). -/
def State.nextAnswer (s : State) : BitVec 7 :=
  match s.inputs.answers with
  | a :: _ => a
  | [] => Config.answer s.inputs.drawn

/-- The state after the next answer was drawn. -/
def State.afterDraw (s : State) : State :=
  match s.inputs.answers with
  | _ :: rest => { s with inputs := { s.inputs with answers := rest } }
  | [] => { s with inputs := { s.inputs with drawn := s.inputs.drawn + 1 } }

/-- `draw({0,1})` as the answer's bit 0. -/
def State.nextBit (s : State) : Bool := s.nextAnswer.getLsbD 0

/-! ## Conditions (R260 to R269) -/

/-- The eleven conditions, each a bit of ERR (R262). -/
inductive Condition where
  | illcmd | badidx | busy | badstate | access | memrange | clamp | deverr | caperr | fataldev | fatalcap
  deriving DecidableEq, Repr

/-- The code of a condition is its bit number in ERR (R262). -/
def Condition.code (c : Condition) : Nat :=
  match c with
  | .illcmd => 0 | .badidx => 1 | .busy => 2 | .badstate => 3 | .access => 4 | .memrange => 5 | .clamp => 6 | .deverr => 7
  | .caperr => 8 | .fataldev => 9 | .fatalcap => 10

/-- The condition's bit of ERR. -/
def Condition.bit (c : Condition) : BitVec 11 := BitVec.twoPow 11 c.code

/-- `flag` (R261): set the sticky bit and go on. -/
def State.flag (s : State) (c : Condition) : State := { s with err := s.err ||| c.bit }

/-- `flag` when a test holds. -/
def State.flagIf (s : State) (test : Bool) (c : Condition) : State := if test then s.flag c else s

/-- TAKING AN EXCEPTION on this hardware: `raise` (R261). The rejected command word w sets its sticky bit and goes into ERRINFO;
nothing else changes. -/
def State.raise (s : State) (c : Condition) (w : Word) : State := { s with err := s.err ||| c.bit, errinfo := w }

/-- The acknowledgement, all there is of a return (R268): ERR loses the bits set in the written word; ERRINFO stays. Ones in
positions 31:11 have no effect (R124). -/
def State.ackErr (s : State) (v : Word) : State := { s with err := s.err &&& ~~~(v.extractLsb' 0 11) }

/-- A command that fails a check of R263: it is rejected under its own word. -/
def reject (c : Condition) (i : Instr) (s : State) : Result := .next (s.raise c (encode i))

/-! ## The checks of R263 that families share -/

/-- Check 3 for the track field: t ≥ NTRK is BADIDX (R96). -/
def onTrack (i : Instr) (t : BitVec 4) (s : State) (run : Fin Config.NTRK → Result) : Result :=
  if h : t.toNat < Config.NTRK then run ⟨t.toNat, h⟩ else reject .badidx i s

/-- Check 3 for an all-pass stage: u ≥ 8 is BADIDX (R96). -/
def onStage (i : Instr) (u : BitVec 4) (s : State) (run : Fin Config.NSTAGE → Result) : Result :=
  if h : u.toNat < Config.NSTAGE then run ⟨u.toNat, h⟩ else reject .badidx i s

/-- Check 3 for a high-pass unit: u ≥ 3 is BADIDX (R96). -/
def onHighPass (i : Instr) (u : BitVec 4) (s : State) (run : Fin Config.NHPF → Result) : Result :=
  if h : u.toNat < Config.NHPF then run ⟨u.toNat, h⟩ else reject .badidx i s

/-- The space a number names (R60). -/
def spaceOf (n : BitVec 4) : Option Space :=
  match n.toNat with
  | 0 => some .wt
  | 1 => some .ft
  | 2 => some .sm
  | 3 => some .pn
  | 4 => some .pp
  | 5 => some .pa
  | 6 => some .ps
  | 7 => some .dl
  | 8 => some .dr
  | 9 => some .ap
  | 10 => some .pb
  | _ => none

/-- Check 3 for a memory space: a number ≥ 11 is BADIDX (R96). -/
def onSpace (i : Instr) (n : BitVec 4) (s : State) (run : Space → Result) : Result :=
  match spaceOf n with
  | some sp => run sp
  | none => reject .badidx i s

/-- Check 4: a command of the DIRECT mode only is BUSY while ACTIVE (R275, R276). -/
def directOnly (i : Instr) (s : State) (run : Result) : Result := if s.status.active then reject .busy i s else run

end Sys2Proof.Machine
end

