-- ==== Sys2Proof/Machine/Operands.lean ====
section
/-! DEFINITION. The operand forms: the operand registers (rules R21, R97) and the control registers an index names, with what a
read returns (R25 to R28). -/

namespace Sys2Proof.Machine

open Sys2Proof

/-! ## Operand registers -/

/-- X[r] (R6, R21). -/
def State.getX (s : State) (r : Reg) : Word := s.x[r.toNat]'r.isLt

/-- `X[r] <- v` (R6, R21). -/
def State.setX (s : State) (r : Reg) (v : Word) : State := { s with x := s.x.set r.toNat v r.isLt }

/-- A result pair: X[rd] and X[(rd+1) mod 16] (R97). -/
def State.setPair (s : State) (rd : Reg) (v : Word × Word) : State := (s.setX rd v.1).setX (rd + 1) v.2

/-- The voice's four results (R97, R214), in the order dry L, dry R, delay send, reverb send. -/
structure Voice where
  dryL : F32
  dryR : F32
  delaySend : F32
  reverbSend : F32
  deriving DecidableEq, Repr

/-- A result quadruple: X[rd] to X[(rd+3) mod 16] (R97). -/
def State.setQuad (s : State) (rd : Reg) (v : Voice) : State :=
  (((s.setX rd v.dryL).setX (rd + 1) v.dryR).setX (rd + 2) v.delaySend).setX (rd + 3) v.reverbSend

/-! ## Control registers -/

/-- The global control registers (R26). -/
inductive GlobalReg where
  | status | err | errinfo | rpos | bufcnt | bytecnt | maccl | maccr | cfg | buflen | srate | capacity | wtgeo | smemlen
  deriving DecidableEq, Repr

/-- The global register an index names (R26). -/
def globalReg (csr : BitVec 8) : Option GlobalReg :=
  match csr.toNat with
  | 0x80 => some .status
  | 0x81 => some .err
  | 0x82 => some .errinfo
  | 0x83 => some .rpos
  | 0x84 => some .bufcnt
  | 0x85 => some .bytecnt
  | 0x86 => some .maccl
  | 0x87 => some .maccr
  | 0x88 => some .cfg
  | 0x89 => some .buflen
  | 0x8A => some .srate
  | 0x8B => some .capacity
  | 0x8C => some .wtgeo
  | 0x8D => some .smemlen
  | _ => none

/-- The per-track control registers (R28). -/
inductive TrackReg where
  | vol | pan | kind | root | dsend | rsend | glide | seqvol | bpm | sps | step | scnt
  | gate | amp | fcur | ftgt | ginc | gcnt | ofreq | oinc | ophase | owti | sbase | slen | spos
  | dlvl | dfb | dspr | dlag | dwp | drp | drate | dcnt
  | hcut (u : Fin Config.NHPF) | hcoef (u : Fin Config.NHPF) | hx1 (u : Fin Config.NHPF) | hy1 (u : Fin Config.NHPF)
  | rbus | apidx (u : Fin Config.NSTAGE) | apfb (u : Fin Config.NSTAGE) | aplen (u : Fin Config.NSTAGE)
  deriving DecidableEq, Repr

/-- The per-track register an index names (R28); the other indices are undefined. -/
def trackReg (csr : BitVec 8) : Option TrackReg :=
  match csr.toNat with
  | 0x00 => some .vol
  | 0x01 => some .pan
  | 0x02 => some .kind
  | 0x03 => some .root
  | 0x04 => some .dsend
  | 0x05 => some .rsend
  | 0x06 => some .glide
  | 0x08 => some .seqvol
  | 0x09 => some .bpm
  | 0x0A => some .sps
  | 0x0B => some .step
  | 0x0C => some .scnt
  | 0x10 => some .gate
  | 0x11 => some .amp
  | 0x12 => some .fcur
  | 0x13 => some .ftgt
  | 0x14 => some .ginc
  | 0x15 => some .gcnt
  | 0x18 => some .ofreq
  | 0x19 => some .oinc
  | 0x1A => some .ophase
  | 0x1B => some .owti
  | 0x1C => some .sbase
  | 0x1D => some .slen
  | 0x1E => some .spos
  | 0x20 => some .dlvl
  | 0x21 => some .dfb
  | 0x22 => some .dspr
  | 0x23 => some .dlag
  | 0x24 => some .dwp
  | 0x25 => some .drp
  | 0x26 => some .drate
  | 0x27 => some .dcnt
  | 0x28 => some (.hcut 0)
  | 0x29 => some (.hcut 1)
  | 0x2A => some (.hcut 2)
  | 0x2C => some (.hcoef 0)
  | 0x2D => some (.hcoef 1)
  | 0x2E => some (.hcoef 2)
  | 0x30 => some (.hx1 0)
  | 0x31 => some (.hx1 1)
  | 0x32 => some (.hx1 2)
  | 0x34 => some (.hy1 0)
  | 0x35 => some (.hy1 1)
  | 0x36 => some (.hy1 2)
  | 0x38 => some .rbus
  | 0x40 => some (.apidx 0)
  | 0x41 => some (.apidx 1)
  | 0x42 => some (.apidx 2)
  | 0x43 => some (.apidx 3)
  | 0x44 => some (.apidx 4)
  | 0x45 => some (.apidx 5)
  | 0x46 => some (.apidx 6)
  | 0x47 => some (.apidx 7)
  | 0x48 => some (.apfb 0)
  | 0x49 => some (.apfb 1)
  | 0x4A => some (.apfb 2)
  | 0x4B => some (.apfb 3)
  | 0x4C => some (.apfb 4)
  | 0x4D => some (.apfb 5)
  | 0x4E => some (.apfb 6)
  | 0x4F => some (.apfb 7)
  | 0x50 => some (.aplen 0)
  | 0x51 => some (.aplen 1)
  | 0x52 => some (.aplen 2)
  | 0x53 => some (.aplen 3)
  | 0x54 => some (.aplen 4)
  | 0x55 => some (.aplen 5)
  | 0x56 => some (.aplen 6)
  | 0x57 => some (.aplen 7)
  | _ => none

/-- STATUS as read: CAPOK, DEVOK, FATAL, ACTIVE, PAUSED, RUNNING in bits 5..0 (R23). -/
def Status.toWord (st : Status) : Word :=
  (BitVec.ofBool st.capok ++ BitVec.ofBool st.devok ++ BitVec.ofBool st.fatal ++ BitVec.ofBool st.active ++ BitVec.ofBool st.paused ++
    BitVec.ofBool st.running : BitVec 6).setWidth 32

/-- RPOS as read: pbuf, slot, pframe in bits 31:24, 23:16, 15:0 (R22, R26). -/
def RenderPos.toWord (p : RenderPos) : Word :=
  (BitVec.ofNat 8 p.pbuf.val ++ BitVec.ofNat 8 p.slot.val ++ BitVec.ofNat 16 p.pframe.val : BitVec 32)

/-- What CSRR returns for a global register (R26). -/
def GlobalReg.read (g : GlobalReg) (s : State) : Word :=
  match g with
  | .status => s.status.toWord
  | .err => s.err.setWidth 32
  | .errinfo => s.errinfo
  | .rpos => s.rpos.toWord
  | .bufcnt => s.bufcnt
  | .bytecnt => s.bytecnt
  | .maccl => s.maccl
  | .maccr => s.maccr
  | .cfg => (0#8 ++ BitVec.ofNat 8 Config.NAP ++ BitVec.ofNat 8 Config.NBUF ++ BitVec.ofNat 8 Config.NTRK : BitVec 32)
  | .buflen => BitVec.ofNat 32 Config.BUFLEN
  | .srate => BitVec.ofNat 32 Config.SR
  | .capacity => BitVec.ofNat 32 Config.CAP
  | .wtgeo => (BitVec.ofNat 16 Config.WTLEN ++ BitVec.ofNat 16 Config.NWT : BitVec 32)
  | .smemlen => BitVec.ofNat 32 Config.SMEMLEN

/-- KIND as read: 0 the wavetable oscillator, 1 the sampler (R31). -/
def VoiceKind.toWord (k : VoiceKind) : Word :=
  match k with
  | .wavetable => 0
  | .sampler => 1

/-- What CSRR returns for a per-track register: its value, zero-extended (R25, R28). -/
def TrackReg.read (r : TrackReg) (tr : Track) : Word :=
  match r with
  | .vol => tr.vol
  | .pan => tr.pan
  | .kind => tr.kind.toWord
  | .root => tr.root.setWidth 32
  | .dsend => tr.dsend
  | .rsend => tr.rsend
  | .glide => tr.glide.setWidth 32
  | .seqvol => tr.seqvol
  | .bpm => tr.bpm.setWidth 32
  | .sps => tr.sps
  | .step => tr.step.setWidth 32
  | .scnt => tr.scnt
  | .gate => (BitVec.ofBool tr.gate).setWidth 32
  | .amp => tr.amp
  | .fcur => tr.fcur
  | .ftgt => tr.ftgt
  | .ginc => tr.ginc
  | .gcnt => tr.gcnt.setWidth 32
  | .ofreq => tr.ofreq
  | .oinc => tr.oinc
  | .ophase => tr.ophase
  | .owti => tr.owti.setWidth 32
  | .sbase => tr.sbase
  | .slen => tr.slen
  | .spos => tr.spos
  | .dlvl => tr.dlvl
  | .dfb => tr.dfb
  | .dspr => tr.dspr
  | .dlag => tr.dlag
  | .dwp => BitVec.ofNat 32 tr.dwp.val
  | .drp => tr.drp
  | .drate => tr.drate
  | .dcnt => tr.dcnt
  | .hcut u => tr.hpf[u.val].cut
  | .hcoef u => tr.hpf[u.val].coef
  | .hx1 u => tr.hpf[u.val].x1
  | .hy1 u => tr.hpf[u.val].y1
  | .rbus => tr.rbus
  | .apidx u => tr.apidx[u.val].setWidth 32
  | .apfb _ => Config.REVFB
  | .aplen u => BitVec.ofNat 32 (Config.REVLEN u)

end Sys2Proof.Machine
end

