-- ==== Sys2Proof/Machine/Flags.lean ====
section
/-! DEFINITION. The one flag that values set, CLAMP (rules R10, R25, R264): the clamps, and the write transform of every
writable per-track register. The hardware has no arithmetic condition codes (R23). -/

namespace Sys2Proof.Machine

open Sys2Proof

/-- `clampf` (R10): a NaN becomes the lower bound, -0 passes a lower bound of +0. -/
def clampf (v lo hi : F32) : F32 :=
  if isNaN v then lo else if flt v lo then lo else if flt hi v then hi else v

/-- `clampf` returned something other than its argument (R10). -/
def clampfHit (v lo hi : F32) : Bool := clampf v lo hi != v

/-- `clampu` (R10). -/
def clampu (v : Word) (lo hi : Nat) : Nat :=
  if v.toNat < lo then lo else if hi < v.toNat then hi else v.toNat

/-- `clampu` returned something other than its argument (R10). -/
def clampuHit (v : Word) (lo hi : Nat) : Bool := clampu v lo hi != v.toNat

/-- SPS for a tempo: (15 · SR) div BPM (R33). -/
def spsOf (bpm : Nat) : Word := BitVec.ofNat 32 (15 * Config.SR / bpm)

/-- The write transform of a per-track register: the track after the write and whether CLAMP is flagged; none for a read-only
register (R25, R29 to R33, R38). -/
def TrackReg.write (r : TrackReg) (v : Word) (tr : Track) : Option (Track × Bool) :=
  match r with
  | .vol => some ({ tr with vol := clampf v 0 fOne }, clampfHit v 0 fOne)
  | .pan => some ({ tr with pan := clampf v fMinusOne fOne }, clampfHit v fMinusOne fOne)
  | .kind => some ({ tr with kind := if clampu v 0 1 = 0 then .wavetable else .sampler }, clampuHit v 0 1)
  | .root => some ({ tr with root := BitVec.ofNat 7 (clampu v 0 127) }, clampuHit v 0 127)
  | .dsend => some ({ tr with dsend := clampf v 0 fOne }, clampfHit v 0 fOne)
  | .rsend => some ({ tr with rsend := clampf v 0 fOne }, clampfHit v 0 fOne)
  | .glide => some ({ tr with glide := BitVec.ofNat 16 (clampu v 1 65535) }, clampuHit v 1 65535)
  | .seqvol => some ({ tr with seqvol := clampf v 0 fOne }, clampfHit v 0 fOne)
  | .bpm => some ({ tr with bpm := BitVec.ofNat 16 (clampu v 1 65535), sps := spsOf (clampu v 1 65535) }, clampuHit v 1 65535)
  | .dlvl => some ({ tr with dlvl := clampf v 0 fOne }, clampfHit v 0 fOne)
  | .dfb => some ({ tr with dfb := clampf v 0 fOne }, clampfHit v 0 fOne)
  | .dspr => some ({ tr with dspr := clampf v 0 fOne }, clampfHit v 0 fOne)
  | .sps | .step | .scnt | .gate | .amp | .fcur | .ftgt | .ginc | .gcnt | .ofreq | .oinc | .ophase | .owti | .sbase | .slen | .spos
  | .dlag | .dwp | .drp | .drate | .dcnt | .hcut _ | .hcoef _ | .hx1 _ | .hy1 _ | .rbus | .apidx _ | .apfb _ | .aplen _ => none

end Sys2Proof.Machine
end

