-- ==== Sys2Proof/Machine/Oscillator.lean ====
section
/-! DEFINITION. The oscillator bank: OSC.SETF, OSC.TICK, SMP.SETS, SMP.TRIG, SMP.TICK, WT.SEAL (rules R140 to R150). -/

namespace Sys2Proof.Machine

open Sys2Proof

/-! ## Wavetable oscillator -/

/-- The first loop of the seek: up while the next table's pitch is at most f (R140). 127 rounds reach the end from any index. -/
def seekUp (s : State) (f : F32) (rounds i : Nat) : Nat :=
  match rounds with
  | 0 => i
  | k + 1 => if decide (i < 127) && fle (s.ft (i + 1)) f then seekUp s f k (i + 1) else i

/-- The second loop of the seek: down while f is below the table's pitch (R140). -/
def seekDown (s : State) (f : F32) (i : Nat) : Nat :=
  match i with
  | 0 => 0
  | k + 1 => if flt f (s.ft (k + 1)) then seekDown s f k else k + 1

/-- The wavetable index OSC.SETF leaves, sought from the cached one (R140, R147). -/
def seekTable (s : State) (f : F32) (i : BitVec 7) : BitVec 7 := BitVec.ofNat 7 (seekDown s f (seekUp s f 127 i.toNat))

/-- The unit operation OSC.SETF(t, f) (R140). -/
def oscSetf (t : Fin Config.NTRK) (freq : F32) (s : State) : State :=
  let f := clampf freq 0 f22050
  let tr := s.track t
  (s.setTrack t { tr with ofreq := f, oinc := fdiv f f44100, owti := seekTable s f tr.owti }).flagIf (clampfHit freq 0 f22050) .clamp

/-- OSC.SETF (R140). -/
def execOscSetf (t : BitVec 4) (rs : Reg) (s : State) : Result :=
  onTrack (.oscSetf t rs) t s fun k => directOnly (.oscSetf t rs) s (.next (oscSetf k (s.getX rs) s))

/-- `CatmullRom`: four-point cubic interpolation in the operation order of R142 (DEDUCED where R142's remarks on x = 0 and on four
equal samples differ from its rounded pseudocode; unsafe, assumption 19). -/
def catmullRom (y0 y1 y2 y3 x : F32) : F32 :=
  let c1 := fmul fHalf (fsub y2 y0)
  let c2 := fsub (fadd (fsub y0 (fmul fTwoHalf y1)) (fmul fTwo y2)) (fmul fHalf y3)
  let c3 := fadd (fmul fHalf (fsub y3 y0)) (fmul fOneHalf (fsub y1 y2))
  fadd (fmul (fadd (fmul (fadd (fmul c3 x) c2) x) c1) x) y1

/-- The phase one tick later, wrapped into [0, 1) (R141). -/
def nextPhase (phase inc : F32) : F32 :=
  let p := fadd phase inc
  if fle fOne p then fsub p fOne else p

/-- The body index a table position stands at: its floor, when that is in 0..WTLEN-1 (R141, R148). -/
def tableIndex (tpos : F32) : Option Nat :=
  match ffloor tpos with
  | some (.ofNat i) => if i < Config.WTLEN then some i else none
  | some (.negSucc _) => none
  | none => none

/-- The interpolated sample of wavetable n at body index i and fraction x; y1 is the body sample d[i], at k = i + 1 (R64, R141). -/
def tableSample (s : State) (n : BitVec 7) (i : Nat) (x : F32) : F32 :=
  catmullRom (s.wordAt .wt (wtAddr n i)) (s.wordAt .wt (wtAddr n (i + 1))) (s.wordAt .wt (wtAddr n (i + 2)))
    (s.wordAt .wt (wtAddr n (i + 3))) x

/-- The unit operation OSC.TICK(t) (R141). -/
def oscTick (t : Fin Config.NTRK) (s : State) : Except Fault (F32 × State) :=
  let tr := s.track t
  let p := nextPhase tr.ophase tr.oinc
  let tpos := fmul p f2048
  match tableIndex tpos with
  | some i => .ok (tableSample s tr.owti i (fsub tpos (i2f i)), s.setTrack t { tr with ophase := p })
  | none => .error .phaseOutsideTable

/-- A unit operation's one result, written to X[rd]. -/
def resultToX (rd : Reg) (r : Except Fault (F32 × State)) : Result :=
  match r with
  | .ok (y, s) => .next (s.setX rd y)
  | .error e => .fault e

/-- OSC.TICK (R141). -/
def execOscTick (rd : Reg) (t : BitVec 4) (s : State) : Result :=
  onTrack (.oscTick rd t) t s fun k => directOnly (.oscTick rd t) s (resultToX rd (oscTick k s))

/-- Copy one wavetable element to another (R146). -/
def copySample (n : BitVec 7) (dst src : Nat) (s : State) : State :=
  s.setWordAt .wt (wtAddr n dst) (s.wordAt .wt (wtAddr n src))

/-- Write the three guards of wavetable n from its body (R146). -/
def sealTable (n : BitVec 7) (s : State) : State :=
  copySample n (Config.WTLEN + 2) 2 (copySample n (Config.WTLEN + 1) 1 (copySample n 0 Config.WTLEN s))

/-- WT.SEAL (R146). -/
def execWtSeal (n : BitVec 7) (s : State) : Result := directOnly (.wtSeal n) s (.next (sealTable n s))

/-! ## One-shot sampler -/

/-- The sampler buffer SMP.SETS takes: base and length cut to the sample memory (R143). -/
def fitBuffer (base len : Word) : Word × Word :=
  if Config.SMEMLEN < base.toNat then (BitVec.ofNat 32 Config.SMEMLEN, 0)
  else if Config.SMEMLEN - base.toNat < len.toNat then (base, BitVec.ofNat 32 (Config.SMEMLEN - base.toNat))
  else (base, len)

/-- The unit operation SMP.SETS(t, base, len) (R143); CLAMP when the buffer had to be cut. -/
def smpSets (t : Fin Config.NTRK) (base len : Word) (s : State) : State :=
  let b := fitBuffer base len
  (s.setTrack t { s.track t with sbase := b.1, slen := b.2, spos := 0 }).flagIf
    (decide (Config.SMEMLEN < base.toNat) || decide (Config.SMEMLEN - base.toNat < len.toNat)) .clamp

/-- SMP.SETS (R143), accepted in both modes. -/
def execSmpSets (t : BitVec 4) (rb rl : Reg) (s : State) : Result :=
  onTrack (.smpSets t rb rl) t s fun k => .next (smpSets k (s.getX rb) (s.getX rl) s)

/-- The unit operation SMP.TRIG(t) (R144). -/
def smpTrig (t : Fin Config.NTRK) (s : State) : State := s.setTrack t { s.track t with spos := 0 }

/-- SMP.TRIG (R144). -/
def execSmpTrig (t : BitVec 4) (s : State) : Result :=
  onTrack (.smpTrig t) t s fun k => directOnly (.smpTrig t) s (.next (smpTrig k s))

/-- The unit operation SMP.TICK(t): the next sample, then silence from SPOS = SLEN on (R145; conflict C10 of 90_conflicts.md). -/
def smpTick (t : Fin Config.NTRK) (s : State) : Except Fault (F32 × State) :=
  let tr := s.track t
  if tr.spos.toNat < tr.slen.toNat then
    if tr.sbase.toNat + tr.spos.toNat < Config.SMEMLEN then
      .ok (s.wordAt .sm (tr.sbase.toNat + tr.spos.toNat), s.setTrack t { tr with spos := tr.spos + 1 })
    else .error .sampleOutsideMemory
  else .ok (0, s)

/-- SMP.TICK (R145). -/
def execSmpTick (rd : Reg) (t : BitVec 4) (s : State) : Result :=
  onTrack (.smpTick rd t) t s fun k => directOnly (.smpTick rd t) s (resultToX rd (smpTick k s))

end Sys2Proof.Machine
end

