-- ==== Sys2Proof/Machine/Filters.lean ====
section
/-! DEFINITION. The filter stages: APF.PROC, APF.MUTE, HPF.PROC, HPF.SETC (rules R160 to R166). -/

namespace Sys2Proof.Machine

open Sys2Proof

/-- The unit operation APF.PROC(t, u, x): the output is formed from the slot's content before the write (R161). -/
def apfProc (t : Fin Config.NTRK) (u : Fin Config.NSTAGE) (x : F32) (s : State) : Except Fault (F32 × State) :=
  let k := (s.track t).apidx[u.val].toNat
  if k < Config.REVLEN u then
    let b := s.wordAt .ap (stageAddr t u k)
    let s' := s.setWordAt .ap (stageAddr t u k) (fadd x (fmul b Config.REVFB))
    .ok (fsub b x, s'.setTrack t ((s.track t).setApidx u (BitVec.ofNat 10 ((k + 1) % Config.REVLEN u))))
  else .error .stageIndexOutsideBuffer

/-- APF.PROC (R161). -/
def execApfProc (rd : Reg) (t u : BitVec 4) (rs : Reg) (s : State) : Result :=
  onTrack (.apfProc rd t u rs) t s fun k => onStage (.apfProc rd t u rs) u s fun v =>
    directOnly (.apfProc rd t u rs) s (resultToX rd (apfProc k v (s.getX rs) s))

/-- The unit operation APF.MUTE(t, u): the whole buffer in one step, the index unchanged (R162). -/
def apfMute (t : Fin Config.NTRK) (u : Fin Config.NSTAGE) (s : State) : State :=
  s.zeroWords .ap (stageAddr t u 0) (Config.REVLEN u)

/-- APF.MUTE (R162). -/
def execApfMute (t u : BitVec 4) (s : State) : Result :=
  onTrack (.apfMute t u) t s fun k => onStage (.apfMute t u) u s fun v => directOnly (.apfMute t u) s (.next (apfMute k v s))

/-- The output of a high-pass unit for input x (R165). -/
def highPassOut (h : HighPass) (x : F32) : F32 := fmul h.coef (fadd h.y1 (fsub x h.x1))

/-- The unit operation HPF.PROC(t, u, x) (R165). -/
def hpfProc (t : Fin Config.NTRK) (u : Fin Config.NHPF) (x : F32) (s : State) : F32 × State :=
  let h := (s.track t).hpf[u.val]
  let y := highPassOut h x
  (y, s.setTrack t ((s.track t).setHpf u { h with x1 := x, y1 := y }))

/-- HPF.PROC (R165). -/
def execHpfProc (rd : Reg) (t u : BitVec 4) (rs : Reg) (s : State) : Result :=
  onTrack (.hpfProc rd t u rs) t s fun k => onHighPass (.hpfProc rd t u rs) u s fun v =>
    directOnly (.hpfProc rd t u rs) s (resultToX rd (.ok (hpfProc k v (s.getX rs) s)))

/-- The coefficient for a cutoff, 1/(1 + 2π·fc/SR), in the operation order of R166. -/
def highPassCoef (fc : F32) : F32 := fdiv fOne (fadd fOne (fdiv (fmul Config.TWO_PI fc) f44100))

/-- The unit operation HPF.SETC(t, u, cutoff): the history is not changed (R166). -/
def hpfSetc (t : Fin Config.NTRK) (u : Fin Config.NHPF) (cutoff : F32) (s : State) : State :=
  let fc := clampf cutoff 0 f22050
  let h := (s.track t).hpf[u.val]
  (s.setTrack t ((s.track t).setHpf u { h with cut := fc, coef := highPassCoef fc })).flagIf (clampfHit cutoff 0 f22050) .clamp

/-- HPF.SETC (R166), accepted in both modes. -/
def execHpfSetc (t u : BitVec 4) (rs : Reg) (s : State) : Result :=
  onTrack (.hpfSetc t u rs) t s fun k => onHighPass (.hpfSetc t u rs) u s fun v => .next (hpfSetc k v (s.getX rs) s)

end Sys2Proof.Machine
end

