-- ==== Sys2Proof/Machine/Delay.lean ====
section
/-! DEFINITION. The delay: DLY.IN, DLY.OUT, DLY.SETT (rules R175 to R181). -/

namespace Sys2Proof.Machine

open Sys2Proof

/-- The unit operation DLY.IN(t, x) (R177). -/
def dlyIn (t : Fin Config.NTRK) (x : F32) (s : State) : State :=
  let tr := s.track t
  let a := ringAddr t tr.dwp.val
  let g := fmul x tr.dlvl
  let s1 := s.setWordAt .dl a (fadd (s.wordAt .dl a) g)
  s1.setWordAt .dr a (fadd (s1.wordAt .dr a) (fmul g (fsub fOne tr.dspr)))

/-- DLY.IN (R177). -/
def execDlyIn (t : BitVec 4) (rs : Reg) (s : State) : Result :=
  onTrack (.dlyIn t rs) t s fun k => directOnly (.dlyIn t rs) s (.next (dlyIn k (s.getX rs) s))

/-- The read cursor after one advance (R178). -/
def advanceRead (tr : Track) : Nat := (tr.drp.toNat + tr.drate.toNat) % Config.RINGMOD

/-- The write cursor after one advance (R178). -/
def advanceWrite (tr : Track) : Fin Config.CAP := ⟨(tr.dwp.val + 1) % Config.CAP, Nat.mod_lt _ (by decide)⟩

/-- DRATE and DCNT after one tick: the rate returns to one slot per tick when the countdown reaches zero (R178). -/
def countdown (tr : Track) : Word × Word :=
  if 0 < tr.dcnt.toNat then (if tr.dcnt = 1 then 0x00010000 else tr.drate, tr.dcnt - 1) else (tr.drate, tr.dcnt)

/-- One channel of the ring read at the Q16.16 position rp: the slot itself, or the crossfade of two neighbours (R178). -/
def ringRead (s : State) (sp : Space) (t : Fin Config.NTRK) (rp : Nat) : F32 :=
  let i := rp / 65536
  let fr := rp % 65536
  if fr = 0 then s.wordAt sp (ringAddr t i)
  else
    let phi := fmul (i2f fr) fTwoPowMinus16
    fadd (fmul (s.wordAt sp (ringAddr t i)) (fsub fOne phi)) (fmul (s.wordAt sp (ringAddr t ((i + 1) % Config.CAP))) phi)

/-- Feedback with cross-channel spread: (1 - DSPR) of the own channel and DSPR of the other (R178). -/
def spreadMix (tr : Track) (own other : F32) : F32 := fadd (fmul own (fsub fOne tr.dspr)) (fmul other tr.dspr)

/-- The unit operation DLY.OUT(t): the pair read before this tick's write, and the state after it (R178). -/
def dlyOut (t : Fin Config.NTRK) (s : State) : (F32 × F32) × State :=
  let tr := s.track t
  let w := advanceWrite tr
  let rp := advanceRead tr
  let rL := ringRead s .dl t rp
  let rR := ringRead s .dr t rp
  let c := countdown tr
  let s1 := s.setTrack t { tr with drate := c.1, dcnt := c.2, dwp := w, drp := BitVec.ofNat 32 rp }
  let (wL, s2) := hpfProc t 0 (fmul tr.dfb (spreadMix tr rL rR)) s1
  let (wR, s3) := hpfProc t 1 (fmul tr.dfb (spreadMix tr rR rL)) s2
  ((rL, rR), (s3.setWordAt .dl (ringAddr t w.val) wL).setWordAt .dr (ringAddr t w.val) wR)

/-- DLY.OUT (R178). -/
def execDlyOut (rd : Reg) (t : BitVec 4) (s : State) : Result :=
  onTrack (.dlyOut rd t) t s fun k => directOnly (.dlyOut rd t) s (.next ((dlyOut k s).2.setPair rd (dlyOut k s).1))

/-- "Halved repeatedly until they fit": a time fits when it is at most CAP - 1 (R179; conflict C11 of 90_conflicts.md). A 32-bit
time fits after fewer than 32 halvings. -/
def halveToFit (rounds time : Nat) : Nat :=
  match rounds with
  | 0 => time
  | k + 1 => if Config.CAP - 1 < time then halveToFit k (time / 2) else time

/-- The lag DLY.SETT takes for a requested time; 0 is raised to 1 (R179). -/
def fitTime (time : Nat) : Nat := max (halveToFit 32 time) 1

/-- The current lag in Q16.16: how far the read cursor trails the write cursor (R176). -/
def currentLag (tr : Track) : Nat := (((tr.dwp.val : Int) * 65536 - tr.drp.toNat) % Config.RINGMOD).toNat

/-- DRATE and DCNT for a retiming from lag cur to lag tgt, both Q16.16 (R179). -/
def retime (cur tgt : Nat) : Word × Word :=
  if tgt < cur then (0x00018000, BitVec.ofNat 32 ((cur - tgt) / 2 ^ 15))
  else if cur < tgt then (0x00008000, BitVec.ofNat 32 ((tgt - cur) / 2 ^ 15))
  else (0x00010000, 0)

/-- The unit operation DLY.SETT(t, T): neither cursor moves (R179). -/
def dlySett (t : Fin Config.NTRK) (time : Word) (s : State) : State :=
  let tr := s.track t
  let lag := fitTime time.toNat
  let r := retime (currentLag tr) (lag * 65536)
  (s.setTrack t { tr with dlag := BitVec.ofNat 32 lag, drate := r.1, dcnt := r.2 }).flagIf (lag != time.toNat) .clamp

/-- DLY.SETT (R179), accepted in both modes. -/
def execDlySett (t : BitVec 4) (rs : Reg) (s : State) : Result :=
  onTrack (.dlySett t rs) t s fun k => .next (dlySett k (s.getX rs) s)

end Sys2Proof.Machine
end

