-- ==== Sys2Proof/Machine/Reverb.lean ====
section
/-! DEFINITION. The reverb: REV.IN, REV.PROC, REV.RST (rules R195 to R198). -/

namespace Sys2Proof.Machine

open Sys2Proof

/-- The left chain, stages 0..3 in series (R195). -/
def leftChain : List (Fin Config.NSTAGE) := [0, 1, 2, 3]

/-- The right chain, stages 4..7 in series (R195). -/
def rightChain : List (Fin Config.NSTAGE) := [4, 5, 6, 7]

/-- The unit operation REV.IN(t, x) (R196). -/
def revIn (t : Fin Config.NTRK) (x : F32) (s : State) : State := s.setTrack t { s.track t with rbus := fadd (s.track t).rbus x }

/-- REV.IN (R196). -/
def execRevIn (t : BitVec 4) (rs : Reg) (s : State) : Result :=
  onTrack (.revIn t rs) t s fun k => directOnly (.revIn t rs) s (.next (revIn k (s.getX rs) s))

/-- A sample through all-pass stages in series, each ticked once (R197). -/
def apfChain (t : Fin Config.NTRK) (stages : List (Fin Config.NSTAGE)) (y : F32) (s : State) : Except Fault (F32 × State) :=
  match stages with
  | [] => .ok (y, s)
  | u :: rest =>
    match apfProc t u y s with
    | .ok (y', s') => apfChain t rest y' s'
    | .error e => .error e

/-- The unit operation REV.PROC(t): the bus is consumed, both chains get its sample (R197). -/
def revProc (t : Fin Config.NTRK) (s : State) : Except Fault ((F32 × F32) × State) :=
  let x := (s.track t).rbus
  match apfChain t leftChain x (s.setTrack t { s.track t with rbus := 0 }) with
  | .error e => .error e
  | .ok (yL, s1) =>
    match apfChain t rightChain x s1 with
    | .error e => .error e
    | .ok (yR, s2) => .ok ((yL, yR), s2)

/-- REV.PROC (R197). -/
def execRevProc (rd : Reg) (t : BitVec 4) (s : State) : Result :=
  onTrack (.revProc rd t) t s fun k => directOnly (.revProc rd t) s
    (match revProc k s with
    | .ok (y, s') => .next (s'.setPair rd y)
    | .error e => .fault e)

/-- Every stage of a track muted (R198). -/
def muteStages (t : Fin Config.NTRK) (s : State) : State := (leftChain ++ rightChain).foldl (fun s u => apfMute t u s) s

/-- The unit operation REV.RST(t) (R198). -/
def revRst (t : Fin Config.NTRK) (s : State) : State :=
  (muteStages t s).setTrack t { s.track t with apidx := Vector.replicate Config.NSTAGE 0, rbus := 0 }

/-- REV.RST (R198), accepted in both modes. -/
def execRevRst (t : BitVec 4) (s : State) : Result := onTrack (.revRst t) t s fun k => .next (revRst k s)

end Sys2Proof.Machine
end

