-- ==== Sys2Proof/Machine/Sequencer.lean ====
section
/-! DEFINITION. The per-track sequencer and voice: SEQ.TICK, SEQ.RNDS, SEQ.RNDR, VOX.TRIG, VOX.OFF, VOX.TICK (rules R205 to
R214). -/

namespace Sys2Proof.Machine

open Sys2Proof

/-! ## Voice -/

/-- The MIDI pitch of a pattern note: ROOT + note in the integers, clamped to 0..127 without a flag (R209). -/
def pitchOf (root : BitVec 7) (note : BitVec 8) : Nat := min (root.toNat + note.toInt).toNat 127

/-- The amplitude factor of a note (R209). -/
def noteAmp (tr : Track) (accent : Bool) : F32 := fmul tr.seqvol (if accent then Config.ACC_GAIN else Config.NORM_GAIN)

/-- A slide from the sounding pitch: a ramp of GLIDE ticks toward fnew (R209, R213). -/
def startGlide (tr : Track) (fnew : F32) : Track :=
  { tr with ftgt := fnew, gcnt := tr.glide, ginc := fdiv (fsub fnew tr.fcur) (i2f tr.glide.toNat) }

/-- A discrete trigger: the pitch is taken at once and no ramp is left (R209). -/
def startNote (tr : Track) (fnew : F32) : Track := { tr with fcur := fnew, ftgt := fnew, gcnt := 0, ginc := 0 }

/-- A discrete trigger restarts a sampler and leaves a wavetable phase alone (R209). -/
def restartSampler (t : Fin Config.NTRK) (s : State) : State :=
  match (s.track t).kind with
  | .sampler => smpTrig t s
  | .wavetable => s

/-- The unit operation VOX.TRIG(t, note, accent, slide) (R209). -/
def voxTrig (t : Fin Config.NTRK) (note : BitVec 8) (accent slide : Bool) (s : State) : State :=
  let fnew := s.ft (pitchOf (s.track t).root note)
  let tr := { s.track t with amp := noteAmp (s.track t) accent }
  let s1 :=
    if slide && tr.gate then s.setTrack t (startGlide tr fnew)
    else restartSampler t (oscSetf t fnew (s.setTrack t (startNote tr fnew)))
  s1.setTrack t { s1.track t with gate := true }

/-- VOX.TRIG (R209). -/
def execVoxTrig (t : BitVec 4) (note : BitVec 8) (accent slide : Bool) (s : State) : Result :=
  onTrack (.voxTrig t note accent slide) t s fun k =>
    directOnly (.voxTrig t note accent slide) s (.next (voxTrig k note accent slide s))

/-- The unit operation VOX.OFF(t) (R210). -/
def voxOff (t : Fin Config.NTRK) (s : State) : State := s.setTrack t { s.track t with gate := false }

/-- VOX.OFF (R210). -/
def execVoxOff (t : BitVec 4) (s : State) : Result :=
  onTrack (.voxOff t) t s fun k => directOnly (.voxOff t) s (.next (voxOff k s))

/-- One tick of a slide: the last tick takes the target exactly, every tick runs OSC.SETF again (R213, R214). -/
def glideTick (t : Fin Config.NTRK) (s : State) : State :=
  let tr := s.track t
  if 0 < tr.gcnt.toNat then
    let f := if tr.gcnt = 1 then tr.ftgt else fadd tr.fcur tr.ginc
    oscSetf t f (s.setTrack t { tr with gcnt := tr.gcnt - 1, fcur := f })
  else s

/-- The tick of the oscillator KIND selects; the other one stands still (R214). -/
def sourceTick (t : Fin Config.NTRK) (s : State) : Except Fault (F32 × State) :=
  match (s.track t).kind with
  | .wavetable => oscTick t s
  | .sampler => smpTick t s

/-- The voice's 4-tuple for a filtered sample: gate and amplitude, then the sends in parallel with the dry signal (R214). -/
def voiceOut (tr : Track) (filtered : F32) : Voice :=
  let v := if tr.gate then fmul filtered tr.amp else 0
  ⟨v, v, fmul v tr.dsend, fmul v tr.rsend⟩

/-- The unit operation VOX.TICK(t) (R214). -/
def voxTick (t : Fin Config.NTRK) (s : State) : Except Fault (Voice × State) :=
  match sourceTick t (glideTick t s) with
  | .error e => .error e
  | .ok (raw, s1) =>
    let (filtered, s2) := hpfProc t 2 raw s1
    .ok (voiceOut (s2.track t) filtered, s2)

/-- VOX.TICK (R214). -/
def execVoxTick (rd : Reg) (t : BitVec 4) (s : State) : Result :=
  onTrack (.voxTick rd t) t s fun k => directOnly (.voxTick rd t) s
    (match voxTick k s with
    | .ok (v, s') => .next (s'.setQuad rd v)
    | .error e => .fault e)

/-! ## Sequencer -/

/-- A pattern flag of slot k of track t (R61, R66). -/
def State.patternFlag (s : State) (sp : Space) (t : Fin Config.NTRK) (k : BitVec 4) : Bool :=
  (s.byteAt sp (patternAddr t k)).getLsbD 0

/-- What a step boundary issues for slot k: a trigger, or a note-off on a paused step (R206). -/
def playSlot (t : Fin Config.NTRK) (k : BitVec 4) (s : State) : State :=
  if s.patternFlag .pp t k then voxOff t s
  else voxTrig t (s.byteAt .pn (patternAddr t k)) (s.patternFlag .pa t k) (s.patternFlag .ps t k) s

/-- A step boundary: play the slot at STEP, advance STEP modulo 16, reload SCNT with SPS (R206). -/
def stepBoundary (t : Fin Config.NTRK) (s : State) : State :=
  let k := (s.track t).step
  let s1 := playSlot t k s
  s1.setTrack t { s1.track t with step := k + 1, scnt := (s1.track t).sps }

/-- The unit operation SEQ.TICK(t) (R206). -/
def seqTick (t : Fin Config.NTRK) (s : State) : State :=
  let s1 := if (s.track t).scnt = 0 then stepBoundary t s else s
  s1.setTrack t { s1.track t with scnt := (s1.track t).scnt - 1 }

/-- SEQ.TICK (R206). -/
def execSeqTick (t : BitVec 4) (s : State) : Result :=
  onTrack (.seqTick t) t s fun k => directOnly (.seqTick t) s (.next (seqTick k s))

/-- The 16 slots of a pattern, in step order (R66). -/
def patternSlots : List (BitVec 4) := [0, 1, 2, 3, 4, 5, 6, 7, 8, 9, 10, 11, 12, 13, 14, 15]

/-- The note an answer stands for: the answers 0..127 are the notes -ROOT..127-ROOT in order (R207). -/
def drawnNote (root answer : BitVec 7) : BitVec 8 := BitVec.ofInt 8 (answer.toNat - root.toNat)

/-- One note drawn and written (R207). -/
def rndNote (t : Fin Config.NTRK) (s : State) (k : BitVec 4) : State :=
  (s.afterDraw).setByteAt .pn (patternAddr t k) (drawnNote (s.track t).root s.nextAnswer)

/-- The unit operation SEQ.RNDS(t): 16 notes, each drawn from those whose pitch lies in 0..127 (R207). -/
def seqRnds (t : Fin Config.NTRK) (s : State) : State := patternSlots.foldl (rndNote t) s

/-- SEQ.RNDS (R207), accepted in both modes. -/
def execSeqRnds (t : BitVec 4) (s : State) : Result := onTrack (.seqRnds t) t s fun k => .next (seqRnds k s)

/-- One flag drawn and written (R208). -/
def rndFlag (sp : Space) (t : Fin Config.NTRK) (k : BitVec 4) (s : State) : State :=
  (s.afterDraw).setByteAt sp (patternAddr t k) ((BitVec.ofBool s.nextBit).setWidth 8)

/-- The three flags of one slot, drawn in the order pause, accent, slide (R208, 93_implementation_defined.md I6). -/
def rndSlot (t : Fin Config.NTRK) (s : State) (k : BitVec 4) : State :=
  rndFlag .ps t k (rndFlag .pa t k (rndFlag .pp t k s))

/-- The unit operation SEQ.RNDR(t) (R208). -/
def seqRndr (t : Fin Config.NTRK) (s : State) : State := patternSlots.foldl (rndSlot t) s

/-- SEQ.RNDR (R208), accepted in both modes. -/
def execSeqRndr (t : BitVec 4) (s : State) : Result := onTrack (.seqRndr t) t s fun k => .next (seqRndr k s)

end Sys2Proof.Machine
end

