-- ==== Sys2Proof/Machine/Mixer.lean ====
section
/-! DEFINITION. The stereo mixer and the PCM output: MIX.PAN, MIX.TRK, MIX.CVT, MIX.EMIT with the handoff of a full buffer
(rules R225 to R229, R239). -/

namespace Sys2Proof.Machine

open Sys2Proof

/-- A channel's pan gain, clipped at the unity point (R226). -/
def clipGain (g : F32) : F32 := if flt fOne g then fOne else g

/-- The unit operation MIX.PAN(t, l, r) (R226). -/
def mixPan (tr : Track) (l r : F32) : F32 × F32 :=
  (fmul (fmul l (clipGain (fsub fOne tr.pan))) tr.vol, fmul (fmul r (clipGain (fadd fOne tr.pan))) tr.vol)

/-- MIX.PAN (R226), accepted in both modes; both inputs are read before any result is written (R97). -/
def execMixPan (rd : Reg) (t : BitVec 4) (rs : Reg) (s : State) : Result :=
  onTrack (.mixPan rd t rs) t s fun k => .next (s.setPair rd (mixPan (s.track k) (s.getX rs) (s.getX (rs + 1))))

/-- Step (d) of a track's chain for one channel: dry + delay-out + reverb-out (R227). -/
def sumEffects (dry delay reverb : F32) : F32 := fadd (fadd dry delay) reverb

/-- Steps (d) to (f): pan the track's sums and add them to the master accumulator (R227). -/
def accumulate (t : Fin Config.NTRK) (sumL sumR : F32) (s : State) : State :=
  let p := mixPan (s.track t) sumL sumR
  { s with maccl := fadd s.maccl p.1, maccr := fadd s.maccr p.2 }

/-- The unit operation MIX.TRK(t): voice, delay, reverb, pan, accumulate, in that order (R227). -/
def mixTrk (t : Fin Config.NTRK) (s : State) : Except Fault State :=
  match voxTick t s with
  | .error e => .error e
  | .ok (v, s1) =>
    let (e, s2) := dlyOut t (dlyIn t v.delaySend s1)
    match revProc t (revIn t v.reverbSend s2) with
    | .error e => .error e
    | .ok (r, s3) => .ok (accumulate t (sumEffects v.dryL e.1 r.1) (sumEffects v.dryR e.2 r.2) s3)

/-- MIX.TRK (R227). -/
def execMixTrk (t : BitVec 4) (s : State) : Result :=
  onTrack (.mixTrk t) t s fun k => directOnly (.mixTrk t) s (resultOf (mixTrk k s))

/-- MIX.CVT (R228). -/
def execMixCvt (rd rs : Reg) (s : State) : Result := .next (s.setX rd ((pcm16 (s.getX rs)).signExtend 32))

/-- The bytes of PCM buffer b as the sinks see them (R71). -/
def bufferBytes (s : State) (b : Fin Config.NBUF) : List Byte :=
  (List.range (4 * Config.BUFLEN)).map fun k => s.mem.byte (Space.pb.cell (b.val * Config.BUFLEN) + k)

/-- Offer a buffer to the device sink, if it is viable; a failing answer flags DEVERR and drops the sink (R239). -/
def offerDevice (s : State) : State :=
  if s.status.devok then
    if s.nextBit then s.afterDraw else { s.afterDraw.flag .deverr with status := { s.status with devok := false } }
  else s

/-- Offer a buffer to the capture sink, if it is viable; a failing answer flags CAPERR and drops the sink (R239). -/
def offerCapture (s : State) : State :=
  if s.status.capok then
    if s.nextBit then s.afterDraw else { s.afterDraw.flag .caperr with status := { s.status with capok := false } }
  else s

/-- The index of the PCM buffer after b (R239). -/
def nextBuffer (b : Fin Config.NBUF) : Fin Config.NBUF := ⟨(b.val + 1) % Config.NBUF, Nat.mod_lt _ (by decide)⟩

/-- Handoff(b) (R239): both offers, the EMIT event, the counters, the next buffer. -/
def handoff (b : Fin Config.NBUF) (s : State) : State :=
  let s1 := offerCapture (offerDevice s)
  { s1 with
    events := s.events ++ [.emit b (bufferBytes s b) s.status.devok s.status.capok]
    bufcnt := s.bufcnt + 1
    bytecnt := s.bytecnt + BitVec.ofNat 32 (4 * Config.BUFLEN)
    rpos := { s.rpos with pbuf := nextBuffer b, pframe := 0 } }

/-- The frame word of the master accumulator: right sample in the high half, left in the low (R71, R229). -/
def frameWord (s : State) : Word := (pcm16 s.maccr ++ pcm16 s.maccl : BitVec 32)

/-- Store the frame and clear the accumulator (R229). -/
def storeFrame (s : State) : State :=
  { s.setWordAt .pb (frameAddr s.rpos.pbuf s.rpos.pframe) (frameWord s) with maccl := 0, maccr := 0 }

/-- The unit operation MIX.EMIT: store the frame, then the next frame or the handoff; slot is not touched (R229). -/
def mixEmit (s : State) : State :=
  if h : s.rpos.pframe.val + 1 < Config.BUFLEN then
    { storeFrame s with rpos := { s.rpos with pframe := ⟨s.rpos.pframe.val + 1, h⟩ } }
  else handoff s.rpos.pbuf (storeFrame s)

/-- MIX.EMIT (R229). -/
def execMixEmit (s : State) : Result := directOnly .mixEmit s (.next (mixEmit s))

end Sys2Proof.Machine
end

