-- ==== Sys2Proof/Machine/Agent.lean ====
section
/-! DEFINITION. The render agent: its schedule, when it may step, the dispose step (rules R235 to R241); and the reset input
(R290). -/

namespace Sys2Proof.Machine

open Sys2Proof

/-- The render position is at the boundary: the start of a buffer (R237). -/
def State.atBoundary (s : State) : Bool := s.rpos.pframe == 0 && s.rpos.slot == 0

/-- The agent's step is enabled (R237). -/
def State.agentEnabled (s : State) : Bool := s.status.active && !(s.atBoundary && s.status.running && s.status.paused)

/-- The enabled step is the dispose step (R237). -/
def State.disposing (s : State) : Bool := s.atBoundary && !s.status.running

/-- The dispose step, the end of a run (R240). -/
def disposeStep (s : State) : State :=
  { s with
    events := s.events ++ [.dispose s.bytecnt s.status.capok]
    status := { s.status with active := false, paused := false, devok := false, capok := false } }

/-- `slot <- q` (R238). -/
def State.setSlot (s : State) (q : Fin Config.NSLOT) : State := { s with rpos := { s.rpos with slot := q } }

/-- The slot after one that is not the last of the frame (R238). -/
def nextSlot (q : Fin Config.NSLOT) (h : q.val < 2 * Config.NTRK) : Fin Config.NSLOT := ⟨q.val + 1, Nat.succ_lt_succ h⟩

/-- The track a MIX.TRK slot works on: q - NTRK (R236). -/
def mixTrackOf (q : Fin Config.NSLOT) (h : q.val < 2 * Config.NTRK) : Fin Config.NTRK :=
  ⟨q.val - Config.NTRK, by simp only [Config.NTRK] at *; omega⟩

/-- The schedule slot at RPOS (R236, R238). -/
def slotStep (s : State) : Except Fault State :=
  if h : s.rpos.slot.val < Config.NTRK then
    .ok ((seqTick ⟨s.rpos.slot.val, h⟩ s).setSlot (nextSlot s.rpos.slot (Nat.lt_of_lt_of_le h (by decide))))
  else if h2 : s.rpos.slot.val < 2 * Config.NTRK then
    match mixTrk (mixTrackOf s.rpos.slot h2) s with
    | .ok s' => .ok (s'.setSlot (nextSlot s.rpos.slot h2))
    | .error e => .error e
  else .ok (mixEmit (s.setSlot 0))

/-- The agent's turn: nothing while it is not enabled, else the dispose step or the slot at RPOS (R237, R238). -/
def agentTurn (s : State) : Result :=
  if s.agentEnabled then (if s.disposing then .next (disposeStep s) else resultOf (slotStep s)) else .next s

/-- The reset input: the reset state, whatever was going on, with an empty event history; the inputs still to come stay (R290,
assumption 9). -/
def resetTurn (s : State) : Result := .next { State.reset with inputs := s.inputs }

end Sys2Proof.Machine
end

