-- ==== Sys2Proof/Machine/Engine.lean ====
section
/-! DEFINITION. Engine control: ENG.START with INIT, ENG.STOP, ENG.PAUSE, ENG.RESUME (rules R230 to R234, R294). -/

namespace Sys2Proof.Machine

open Sys2Proof

/-- A high-pass unit's history cleared; cutoff and coefficient are kept (R294). -/
def clearHistory (h : HighPass) : HighPass := { h with x1 := 0, y1 := 0 }

/-- The read cursor exactly DLAG behind a write cursor of 0 (R294). -/
def initialRead (dlag : Word) : Word := BitVec.ofNat 32 (((Config.CAP : Int) - dlag.toNat) % Config.CAP).toNat <<< 16

/-- The registers of one track after INIT; the reverb's are REV.RST's (R28, R294). -/
def initRegs (tr : Track) : Track :=
  { tr with
    step := 0, scnt := 0
    gate := false, amp := 0, fcur := 0, ftgt := 0, ginc := 0, gcnt := 0
    ofreq := 0, oinc := 0, ophase := 0, owti := 0
    spos := 0
    dwp := 0, drp := initialRead tr.dlag, drate := 0x00010000, dcnt := 0
    hpf := tr.hpf.map clearHistory }

/-- INIT of one track: registers, delay rings, reverb (R294). -/
def initTrack (s : State) (t : Fin Config.NTRK) : State :=
  revRst t (((s.setTrack t (initRegs (s.track t))).zeroWords .dl (ringAddr t 0) Config.CAP).zeroWords .dr (ringAddr t 0) Config.CAP)

/-- The tracks in order. -/
def allTracks : List (Fin Config.NTRK) := [0, 1, 2, 3]

/-- INIT (R294). -/
def initEngine (s : State) : State :=
  { allTracks.foldl initTrack s with maccl := 0, maccr := 0, rpos := ⟨0, 0, 0⟩, bufcnt := 0, bytecnt := 0 }

/-- The abort of a start-up: FATAL and the report of each failed answer; nothing is initialised (R230). -/
def abortStart (dev cap : Bool) (s : State) : State :=
  let s1 := { s with status := { s.status with fatal := true } }
  (s1.flagIf (!dev) .fataldev).flagIf (!cap) .fatalcap

/-- A successful start: INIT, then RUN with both sinks viable (R230). -/
def beginRun (s : State) : State :=
  { initEngine s with status := { s.status with running := true, active := true, paused := false, devok := true, capok := true } }

/-- ENG.START (R230): BADSTATE when ACTIVE or FATAL; both answers are always drawn, device first. -/
def execEngStart (s : State) : Result :=
  if s.status.active || s.status.fatal then reject .badstate .engStart s
  else
    let dev := s.nextBit
    let cap := s.afterDraw.nextBit
    let s1 := s.afterDraw.afterDraw
    if dev && cap then .next (beginRun s1) else .next (abortStart dev cap s1)

/-- Check 5 of the other engine commands: BADSTATE when RUNNING = 0 (R231 to R233). -/
def whenRunning (i : Instr) (s : State) (run : Result) : Result := if s.status.running then run else reject .badstate i s

/-- ENG.STOP (R231): only the flag; the render agent goes on to the boundary. -/
def execEngStop (s : State) : Result :=
  whenRunning .engStop s (.next { s with status := { s.status with running := false } })

/-- ENG.PAUSE (R232). -/
def execEngPause (s : State) : Result :=
  whenRunning .engPause s (.next { s with status := { s.status with paused := true } })

/-- ENG.RESUME (R233). -/
def execEngResume (s : State) : Result :=
  whenRunning .engResume s (.next { s with status := { s.status with paused := false } })

end Sys2Proof.Machine
end

