-- ==== Sys2Proof/Machine/System.lean ====
section
/-! DEFINITION. Register, control-register and memory commands: NOP, LIL, LIH, CSRR, CSRW, LDM, STM, CVT.S16 (rules R120 to
R127). -/

namespace Sys2Proof.Machine

open Sys2Proof

/-- NOP (R120). -/
def execNop (s : State) : Result := .next s

/-- LIL: the immediate, zero-extended (R121). -/
def execLil (rd : Reg) (imm : BitVec 16) (s : State) : Result := .next (s.setX rd (imm.setWidth 32))

/-- LIH: the immediate becomes the high half, the low half is kept (R122). -/
def execLih (rd : Reg) (imm : BitVec 16) (s : State) : Result :=
  .next (s.setX rd (imm ++ (s.getX rd).extractLsb' 0 16 : BitVec 32))

/-- CSRR (R123): ILLCMD for a global index with a track, BADIDX for an undefined index or track, else the value read. -/
def execCsrr (rd : Reg) (t : BitVec 4) (csr : BitVec 8) (s : State) : Result :=
  if !csrTrackOk t csr then reject .illcmd (.csrr rd t csr) s
  else if csrIsGlobal csr then
    match globalReg csr with
    | some g => .next (s.setX rd (g.read s))
    | none => reject .badidx (.csrr rd t csr) s
  else
    match trackReg csr with
    | some r => onTrack (.csrr rd t csr) t s fun k => .next (s.setX rd (r.read (s.track k)))
    | none => reject .badidx (.csrr rd t csr) s

/-- A write to a global register: ERR is W1C, every other one read-only (R26, R124). -/
def GlobalReg.write (g : GlobalReg) (v : Word) (s : State) : Option State :=
  match g with
  | .err => some (s.ackErr v)
  | .status | .errinfo | .rpos | .bufcnt | .bytecnt | .maccl | .maccr | .cfg | .buflen | .srate | .capacity | .wtgeo | .smemlen => none

/-- CSRW (R124): ILLCMD and BADIDX as for CSRR, ACCESS for a read-only register, else the register's write transform. -/
def execCsrw (t : BitVec 4) (csr : BitVec 8) (rs : Reg) (s : State) : Result :=
  if !csrTrackOk t csr then reject .illcmd (.csrw t csr rs) s
  else if csrIsGlobal csr then
    match globalReg csr with
    | some g =>
      match g.write (s.getX rs) s with
      | some s' => .next s'
      | none => reject .access (.csrw t csr rs) s
    | none => reject .badidx (.csrw t csr rs) s
  else
    match trackReg csr with
    | some r => onTrack (.csrw t csr rs) t s fun k =>
      match r.write (s.getX rs) (s.track k) with
      | some (tr, hit) => .next ((s.setTrack k tr).flagIf hit .clamp)
      | none => reject .access (.csrw t csr rs) s
    | none => reject .badidx (.csrw t csr rs) s

/-- The post-increment of an address register, modulo 2^32 (R125, R126). -/
def postIncrement (post : Bool) (ra : Reg) (addr : Word) (s : State) : State := if post then s.setX ra (addr + 1) else s

/-- LDM (R125). The increment is written first, so that with rd = ra the loaded value wins. -/
def execLdm (rd : Reg) (space : BitVec 4) (ra : Reg) (post : Bool) (s : State) : Result :=
  onSpace (.ldm rd space ra post) space s fun sp =>
    if sp.inRange (s.getX ra).toNat then
      .next ((postIncrement post ra (s.getX ra) s).setX rd (s.memRead sp (s.getX ra).toNat))
    else reject .memrange (.ldm rd space ra post) s

/-- The spaces a host store reaches in DIRECT mode only (R63, R126). -/
def Space.directStore (sp : Space) : Bool :=
  match sp with
  | .wt | .ft | .sm | .dl | .dr | .ap => true
  | .pn | .pp | .pa | .ps | .pb => false

/-- STM (R126), its checks in the order BUSY, ACCESS, MEMRANGE. The stored value is read before the increment. -/
def execStm (space : BitVec 4) (ra : Reg) (post : Bool) (rv : Reg) (s : State) : Result :=
  onSpace (.stm space ra post rv) space s fun sp =>
    if sp.directStore && s.status.active then reject .busy (.stm space ra post rv) s
    else if sp = .pb then reject .access (.stm space ra post rv) s
    else if sp.inRange (s.getX ra).toNat then
      .next (postIncrement post ra (s.getX ra) (s.memWrite sp (s.getX ra).toNat (s.getX rv)))
    else reject .memrange (.stm space ra post rv) s

/-- A raw 16-bit sample as binary32, scaled by 1/32768 (R127). -/
def cvtS16 (v : Word) : F32 := fdiv (i2f (v.extractLsb' 0 16).toInt) f32768

/-- CVT.S16 (R127). -/
def execCvtS16 (rd rs : Reg) (s : State) : Result := .next (s.setX rd (cvtS16 (s.getX rs)))

end Sys2Proof.Machine
end

