-- ==== Sys2Proof/Machine/Dispatch.lean ====
section
/-! DEFINITION. The dispatch: one arm per command, each one direct call of its meaning. -/

namespace Sys2Proof.Machine

def exec (i : Instr) (s : State) : Host.Outcome State Fault Refusal :=
  match i with
  | .nop => Sys2Proof.Machine.execNop s
  | .lil rd imm => Sys2Proof.Machine.execLil rd imm s
  | .lih rd imm => Sys2Proof.Machine.execLih rd imm s
  | .csrr rd t csr => Sys2Proof.Machine.execCsrr rd t csr s
  | .csrw t csr rs => Sys2Proof.Machine.execCsrw t csr rs s
  | .ldm rd space ra post => Sys2Proof.Machine.execLdm rd space ra post s
  | .stm space ra post rv => Sys2Proof.Machine.execStm space ra post rv s
  | .cvtS16 rd rs => Sys2Proof.Machine.execCvtS16 rd rs s
  | .engStart => Sys2Proof.Machine.execEngStart s
  | .engStop => Sys2Proof.Machine.execEngStop s
  | .engPause => Sys2Proof.Machine.execEngPause s
  | .engResume => Sys2Proof.Machine.execEngResume s
  | .oscSetf t rs => Sys2Proof.Machine.execOscSetf t rs s
  | .oscTick rd t => Sys2Proof.Machine.execOscTick rd t s
  | .smpSets t rb rl => Sys2Proof.Machine.execSmpSets t rb rl s
  | .smpTrig t => Sys2Proof.Machine.execSmpTrig t s
  | .smpTick rd t => Sys2Proof.Machine.execSmpTick rd t s
  | .wtSeal n => Sys2Proof.Machine.execWtSeal n s
  | .apfProc rd t u rs => Sys2Proof.Machine.execApfProc rd t u rs s
  | .apfMute t u => Sys2Proof.Machine.execApfMute t u s
  | .hpfProc rd t u rs => Sys2Proof.Machine.execHpfProc rd t u rs s
  | .hpfSetc t u rs => Sys2Proof.Machine.execHpfSetc t u rs s
  | .dlyIn t rs => Sys2Proof.Machine.execDlyIn t rs s
  | .dlyOut rd t => Sys2Proof.Machine.execDlyOut rd t s
  | .dlySett t rs => Sys2Proof.Machine.execDlySett t rs s
  | .revIn t rs => Sys2Proof.Machine.execRevIn t rs s
  | .revProc rd t => Sys2Proof.Machine.execRevProc rd t s
  | .revRst t => Sys2Proof.Machine.execRevRst t s
  | .seqTick t => Sys2Proof.Machine.execSeqTick t s
  | .seqRnds t => Sys2Proof.Machine.execSeqRnds t s
  | .seqRndr t => Sys2Proof.Machine.execSeqRndr t s
  | .voxTrig t note accent slide => Sys2Proof.Machine.execVoxTrig t note accent slide s
  | .voxOff t => Sys2Proof.Machine.execVoxOff t s
  | .voxTick rd t => Sys2Proof.Machine.execVoxTick rd t s
  | .mixTrk t => Sys2Proof.Machine.execMixTrk t s
  | .mixPan rd t rs => Sys2Proof.Machine.execMixPan rd t rs s
  | .mixEmit => Sys2Proof.Machine.execMixEmit s
  | .mixCvt rd rs => Sys2Proof.Machine.execMixCvt rd rs s

end Sys2Proof.Machine
end

