-- ==== Sys2Proof/Machine/Command.lean ====
section
/-! DEFINITION. One word at the command port (rules R90, R95): decode it, reject an illegal word, execute a command. -/

namespace Sys2Proof.Machine

open Sys2Proof

/-- The host's turn: an illegal word raises ILLCMD, a command is executed (R90, R95, R263). -/
def commandTurn (w : Word) (s : State) : Result :=
  match decode w with
  | .ok i => exec i s
  | .error _ => .next (s.raise .illcmd w)

/-- The word a program word of `nbits` bits stands for; every bit above is 0. -/
def tableWord (nbits w : Nat) : Word := BitVec.ofNat 32 (w % 2 ^ nbits)

/-- Put a command at the head of the turns to come. -/
def State.queueCommand (s : State) (w : Word) : State := { s with inputs := { s.inputs with turns := .command w :: s.inputs.turns } }

/-- The turns to come after the first. -/
def State.dropTurn (s : State) : State := { s with inputs := { s.inputs with turns := s.inputs.turns.tail } }

end Sys2Proof.Machine
end

