-- ==== Sys2Proof/Machine/Step.lean ====
section
/-! DEFINITION. One step of the whole machine (rule R70): the next turn of the total order of steps. The hardware fetches no
instructions (R22, R76): a command arrives at the port as the host's turn. -/

namespace Sys2Proof.Machine

open Sys2Proof

/-- One step: the next turn, which is thereby used up; when no turn is scripted the render agent moves, if it can (R70, R237). -/
def step (s : State) : Host.Outcome State Fault Refusal :=
  match s.inputs.turns with
  | [] => agentTurn s
  | .command w :: _ => commandTurn w s.dropTurn
  | .agent :: _ => agentTurn s.dropTurn
  | .reset :: _ => resetTurn s.dropTurn

/-- The state whose very next step takes this command word from the port; nothing else is changed. -/
def State.withFetchWord (s : State) (nbits w : Nat) : State := s.queueCommand (tableWord nbits w)

end Sys2Proof.Machine
end

