-- ==== Sys2Proof/Safety.lean ====
section
/-! DEFINITION. The terms statements use: exact values, frames, the element addresses of R60, the rejection order of R263, the
opcode rows of R94, the register lists of R26 and R28, and the invariants the spec states. -/

namespace Sys2Proof.Machine

open Sys2Proof

/-! ## Exact values -/

/-- The pattern stands for a real number (R8). -/
abbrev IsFinite (a : F32) : Prop := fexpo a ≠ 255

/-- The number a finite pattern stands for (R8). -/
def valueOf (a : F32) : ℚ := (fsigned a : ℚ) * (2 : ℚ) ^ fscale a

/-- `r` is a binary32 value nearest to the exact number q, and the one with an even last bit if two are equally near (R9). -/
def NearestEven (r : F32) (q : ℚ) : Prop :=
  IsFinite r ∧ ∀ c : F32, IsFinite c →
    |valueOf r - q| ≤ |valueOf c - q| ∧ (|valueOf r - q| = |valueOf c - q| → valueOf c ≠ valueOf r → r.getLsbD 0 = false)

/-! ## Operands and runs -/

/-- The track field that names track k. -/
def trackField (k : Fin Config.NTRK) : BitVec 4 := BitVec.ofNat 4 k.val

/-- The unit field that names all-pass stage u. -/
def stageField (u : Fin Config.NSTAGE) : BitVec 4 := BitVec.ofNat 4 u.val

/-- The unit field that names high-pass unit u. -/
def unitField (u : Fin Config.NHPF) : BitVec 4 := BitVec.ofNat 4 u.val

/-- Commands one after another, with no other turn between them. -/
def runCommands (is : List Instr) (s : State) : Result :=
  match is with
  | [] => .next s
  | i :: rest =>
    match exec i s with
    | .next u => runCommands rest u
    | .fault e => .fault e
    | .refused r => .refused r

/-- The operation of a schedule slot, as the command of the same name (R236). -/
def scheduled (q : Fin Config.NSLOT) : Instr :=
  if q.val < 4 then .seqTick (BitVec.ofNat 4 q.val) else if q.val < 8 then .mixTrk (BitVec.ofNat 4 (q.val - 4)) else .mixEmit

/-- The same state in DIRECT mode (R275). -/
def State.direct (s : State) : State := { s with status := { s.status with active := false } }

/-! ## Draws -/

/-- The state after n answers of the environment were drawn (R6). -/
def State.afterDraws (s : State) (n : Nat) : State :=
  match n with
  | 0 => s
  | k + 1 => (s.afterDraws k).afterDraw

/-- An answer to `draw({0,1})` (R6). -/
def bitAnswer (b : Bool) : BitVec 7 := if b then 1 else 0

/-! ## Frames -/

/-- What a unit command leaves alone: X registers outside `regs`, tracks outside `tracks`, every byte outside the `stored`
areas (first byte, length), and everything that is no X register, track, memory byte or ERR bit. -/
structure Keeps (s u : State) (regs : List Reg) (tracks : List (Fin Config.NTRK)) (stored : List (Nat × Nat)) : Prop where
  regs : ∀ r, r ∉ regs → u.getX r = s.getX r
  tracks : ∀ k, k ∉ tracks → u.track k = s.track k
  bytes : ∀ a, (∀ w ∈ stored, a < w.1 ∨ w.1 + w.2 ≤ a) → u.mem.byte a = s.mem.byte a
  rest : { u with x := s.x, tracks := s.tracks, mem := s.mem, err := s.err } = s

/-- Only the listed X registers may change. -/
def OnlyX (s u : State) (regs : List Reg) : Prop := Keeps s u regs [] [] ∧ u.err = s.err

/-- The area of a word element. -/
def wordArea (sp : Space) (a : Nat) : Nat × Nat := (sp.cell a, 4)

/-- ERR after an operation that reports a clamp when a value was changed (R264). -/
def errClamped (s : State) (changed : Bool) : BitVec 11 := if changed then s.err ||| 0x040#11 else s.err

/-! ## The elements of R60 -/

/-- The addresses of a space, as the address layouts of R60 write them. -/
def ElementOf (sp : Space) (a : Nat) : Prop :=
  match sp with
  | .wt => ∃ n k, n < 128 ∧ k < 2051 ∧ a = n * 4096 + k
  | .ft => a < 128
  | .sm => a < 262144
  | .pn | .pp | .pa | .ps => ∃ t k, t < 4 ∧ k < 16 ∧ a = t * 16 + k
  | .dl | .dr => ∃ t i, t < 4 ∧ i < 44100 ∧ a = t * 65536 + i
  | .ap => ∃ t, ∃ u : Fin Config.NSTAGE, ∃ i, t < 4 ∧ i < Config.REVLEN u ∧ a = (t * 8 + u.val) * 1024 + i
  | .pb => ∃ b f, b < 2 ∧ f < 1024 ∧ a = b * 1024 + f

/-- What an element of a space holds of a stored word (R61). -/
def converted (sp : Space) (v : Word) : Word :=
  match sp with
  | .pn => (v.setWidth 8).signExtend 32
  | .pp | .pa | .ps => v &&& 1
  | .wt | .ft | .sm | .dl | .dr | .ap | .pb => v

/-- The reset contents of an element (R292, R293): silence, every step paused, and for FT twelve notes and their octaves. -/
def resetElement (sp : Space) (a : Nat) : Word :=
  match sp with
  | .pp => 1
  | .ft => (([0x4102D013, 0x410A9760, 0x4112D517, 0x411B9041, 0x4124D054, 0x412E9D37, 0x4138FF49, 0x4143FF6A, 0x414FA700,
      0x415C0000, 0x416914F6, 0x4176F110] : List Word).getD (a % 12) 0) + BitVec.ofNat 32 (a / 12 * 0x00800000)
  | .wt | .sm | .pn | .pa | .ps | .dl | .dr | .ap | .pb => 0

/-! ## The checks of R263 -/

/-- A per-track index that R28 does not list. -/
def undefinedTrackCsr (n : Nat) : Bool :=
  n == 0x07 || (0x0D ≤ n && n ≤ 0x0F) || n == 0x16 || n == 0x17 || n == 0x1F || n == 0x2B || n == 0x2F || n == 0x33 || n == 0x37 ||
    (0x39 ≤ n && n ≤ 0x3F) || (0x58 ≤ n && n ≤ 0x7F)

/-- The CSR index is undefined, or names a track that does not exist (R25, R96). -/
def csrMissing (t : BitVec 4) (csr : BitVec 8) : Bool :=
  if csr.toNat < 0x80 then undefinedTrackCsr csr.toNat || decide (4 ≤ t.toNat) else decide (0x8E ≤ csr.toNat)

/-- Check 3: an index names nothing (R96). -/
def indexMissing (i : Instr) : Bool :=
  match i with
  | .csrr _ t csr | .csrw t csr _ => csrMissing t csr
  | .ldm _ sp _ _ | .stm sp _ _ _ => decide (11 ≤ sp.toNat)
  | .apfProc _ t u _ | .apfMute t u => decide (4 ≤ t.toNat) || decide (8 ≤ u.toNat)
  | .hpfProc _ t u _ | .hpfSetc t u _ => decide (4 ≤ t.toNat) || decide (3 ≤ u.toNat)
  | .oscSetf t _ | .oscTick _ t | .smpSets t _ _ | .smpTrig t | .smpTick _ t | .dlyIn t _ | .dlyOut _ t | .dlySett t _
  | .revIn t _ | .revProc _ t | .revRst t | .seqTick t | .seqRnds t | .seqRndr t | .voxTrig t _ _ _ | .voxOff t | .voxTick _ t
  | .mixTrk t | .mixPan _ t _ => decide (4 ≤ t.toNat)
  | .nop | .lil _ _ | .lih _ _ | .cvtS16 _ _ | .engStart | .engStop | .engPause | .engResume | .wtSeal _ | .mixEmit | .mixCvt _ _ => false

/-- Check 4: the command is admitted in DIRECT mode only (R94, R276). -/
def directCommand (i : Instr) : Bool :=
  match i with
  | .stm sp _ _ _ => sp.toNat == 0 || sp.toNat == 1 || sp.toNat == 2 || sp.toNat == 7 || sp.toNat == 8 || sp.toNat == 9
  | .wtSeal _ | .oscSetf _ _ | .oscTick _ _ | .smpTrig _ | .smpTick _ _ | .apfProc _ _ _ _ | .apfMute _ _ | .hpfProc _ _ _ _
  | .dlyIn _ _ | .dlyOut _ _ | .revIn _ _ | .revProc _ _ | .seqTick _ | .voxTrig _ _ _ _ | .voxOff _ | .voxTick _ _ | .mixTrk _
  | .mixEmit => true
  | .nop | .lil _ _ | .lih _ _ | .csrr _ _ _ | .csrw _ _ _ | .ldm _ _ _ _ | .cvtS16 _ _ | .engStart | .engStop | .engPause | .engResume
  | .smpSets _ _ _ | .hpfSetc _ _ _ | .dlySett _ _ | .revRst _ | .seqRnds _ | .seqRndr _ | .mixPan _ _ _ | .mixCvt _ _ => false

/-- Check 5: the engine state does not admit the command (R230 to R233). -/
def stateRefuses (i : Instr) (st : Status) : Bool :=
  match i with
  | .engStart => st.active || st.fatal
  | .engStop | .engPause | .engResume => !st.running
  | _ => false

/-- A CSR that CSRW writes: RW or W1C (R26, R28). -/
def csrWritable (csr : BitVec 8) : Bool :=
  decide (csr.toNat ≤ 0x06) || csr.toNat == 0x08 || csr.toNat == 0x09 || (0x20 ≤ csr.toNat && csr.toNat ≤ 0x22) || csr.toNat == 0x81

/-- Check 6: the target is read-only (R124, R126). -/
def targetReadOnly (i : Instr) : Bool :=
  match i with
  | .csrw _ csr _ => !csrWritable csr
  | .stm sp _ _ _ => sp.toNat == 10
  | _ => false

/-- Check 7: the address is none of the space's (R60). -/
def AddressOutside (i : Instr) (s : State) : Prop :=
  match i with
  | .ldm _ n ra _ | .stm n ra _ _ => ∀ sp, spaceOf n = some sp → ¬ElementOf sp (s.getX ra).toNat
  | _ => False

/-- The command is rejected with this condition: its check fails and the checks before it pass (R263). -/
def Rejected (i : Instr) (s : State) (c : Condition) : Prop :=
  match c with
  | .illcmd => WellFormed i = false
  | .badidx => WellFormed i = true ∧ indexMissing i = true
  | .busy => WellFormed i = true ∧ indexMissing i = false ∧ directCommand i = true ∧ s.status.active = true
  | .badstate => stateRefuses i s.status = true
  | .access => WellFormed i = true ∧ indexMissing i = false ∧ targetReadOnly i = true
  | .memrange => indexMissing i = false ∧ (directCommand i && s.status.active) = false ∧ targetReadOnly i = false ∧ AddressOutside i s
  | .clamp | .deverr | .caperr | .fataldev | .fatalcap => False

/-! ## The opcode table of R94 -/

/-- One row of the opcode table: a command word w is the row's when `w &&& mask = pattern` (R94). -/
structure OpcodeRow where
  pattern : Word
  mask : Word
  deriving DecidableEq, Repr

/-- The row of a command, its numbers copied from R94. -/
def rowOf (i : Instr) : OpcodeRow :=
  match i with
  | .nop => ⟨0x00000000, 0xFFFFFFFF⟩
  | .lil _ _ => ⟨0x01000000, 0xFFF00000⟩
  | .lih _ _ => ⟨0x02000000, 0xFFF00000⟩
  | .csrr _ _ _ => ⟨0x03000000, 0xFF00FF00⟩
  | .csrw _ _ _ => ⟨0x04000000, 0xFF00FF00⟩
  | .ldm _ _ _ _ => ⟨0x05000000, 0xFFF000FE⟩
  | .stm _ _ _ _ => ⟨0x06000000, 0xFFF0F00E⟩
  | .cvtS16 _ _ => ⟨0x07000000, 0xFFFF00FF⟩
  | .engStart => ⟨0x08000000, 0xFFFFFFFF⟩
  | .engStop => ⟨0x09000000, 0xFFFFFFFF⟩
  | .engPause => ⟨0x0A000000, 0xFFFFFFFF⟩
  | .engResume => ⟨0x0B000000, 0xFFFFFFFF⟩
  | .oscSetf _ _ => ⟨0x10000000, 0xFF0FF0FF⟩
  | .oscTick _ _ => ⟨0x11000000, 0xFF0F0FFF⟩
  | .smpSets _ _ _ => ⟨0x12000000, 0xFF0FF00F⟩
  | .smpTrig _ => ⟨0x13000000, 0xFF0FFFFF⟩
  | .smpTick _ _ => ⟨0x14000000, 0xFF0F0FFF⟩
  | .wtSeal _ => ⟨0x15000000, 0xFFFFFF80⟩
  | .apfProc _ _ _ _ => ⟨0x20000000, 0xFF0000FF⟩
  | .apfMute _ _ => ⟨0x21000000, 0xFF00FFFF⟩
  | .hpfProc _ _ _ _ => ⟨0x22000000, 0xFF0000FF⟩
  | .hpfSetc _ _ _ => ⟨0x23000000, 0xFF00F0FF⟩
  | .dlyIn _ _ => ⟨0x30000000, 0xFF0FF0FF⟩
  | .dlyOut _ _ => ⟨0x31000000, 0xFF0F0FFF⟩
  | .dlySett _ _ => ⟨0x32000000, 0xFF0FF0FF⟩
  | .revIn _ _ => ⟨0x38000000, 0xFF0FF0FF⟩
  | .revProc _ _ => ⟨0x39000000, 0xFF0F0FFF⟩
  | .revRst _ => ⟨0x3A000000, 0xFF0FFFFF⟩
  | .seqTick _ => ⟨0x40000000, 0xFF0FFFFF⟩
  | .seqRnds _ => ⟨0x41000000, 0xFF0FFFFF⟩
  | .seqRndr _ => ⟨0x42000000, 0xFF0FFFFF⟩
  | .voxTrig _ _ _ _ => ⟨0x48000000, 0xFF0FFC00⟩
  | .voxOff _ => ⟨0x49000000, 0xFF0FFFFF⟩
  | .voxTick _ _ => ⟨0x4A000000, 0xFF0F0FFF⟩
  | .mixTrk _ => ⟨0x50000000, 0xFF0FFFFF⟩
  | .mixPan _ _ _ => ⟨0x51000000, 0xFF0F00FF⟩
  | .mixEmit => ⟨0x52000000, 0xFFFFFFFF⟩
  | .mixCvt _ _ => ⟨0x53000000, 0xFFFF00FF⟩

/-- A command word of a CSR command with a global index and a track, which the mask does not show (R94). -/
def globalCsrWithTrack (w : Word) : Bool :=
  (w.extractLsb' 24 8 == 0x03#8 || w.extractLsb' 24 8 == 0x04#8) && w.getLsbD 7 && w.extractLsb' 20 4 != 0#4

/-! ## The registers of R26 and R28 -/

/-- The global registers and what a read returns (R26). -/
def globalRegisters (s : State) : List (BitVec 8 × Word) :=
  [(0x80, BitVec.ofNat 32 (s.status.running.toNat + 2 * s.status.paused.toNat + 4 * s.status.active.toNat +
      8 * s.status.fatal.toNat + 16 * s.status.devok.toNat + 32 * s.status.capok.toNat)),
   (0x81, s.err.setWidth 32), (0x82, s.errinfo),
   (0x83, BitVec.ofNat 32 (s.rpos.pbuf.val * 2 ^ 24 + s.rpos.slot.val * 2 ^ 16 + s.rpos.pframe.val)),
   (0x84, s.bufcnt), (0x85, s.bytecnt), (0x86, s.maccl), (0x87, s.maccr),
   (0x88, 0x00040204), (0x89, 1024), (0x8A, 44100), (0x8B, 44100), (0x8C, 0x08000080), (0x8D, 262144)]

/-- The sequencer's and voice's registers of a track (R28). -/
def voiceRegisters (tr : Track) : List (BitVec 8 × Word) :=
  [(0x00, tr.vol), (0x01, tr.pan), (0x02, if tr.kind = .sampler then 1 else 0), (0x03, tr.root.setWidth 32),
   (0x04, tr.dsend), (0x05, tr.rsend), (0x06, tr.glide.setWidth 32), (0x08, tr.seqvol), (0x09, tr.bpm.setWidth 32), (0x0A, tr.sps),
   (0x0B, tr.step.setWidth 32), (0x0C, tr.scnt), (0x10, if tr.gate then 1 else 0), (0x11, tr.amp), (0x12, tr.fcur), (0x13, tr.ftgt),
   (0x14, tr.ginc), (0x15, tr.gcnt.setWidth 32)]

/-- The oscillator's, sampler's and delay's registers of a track (R28). -/
def unitRegisters (tr : Track) : List (BitVec 8 × Word) :=
  [(0x18, tr.ofreq), (0x19, tr.oinc), (0x1A, tr.ophase), (0x1B, tr.owti.setWidth 32), (0x1C, tr.sbase), (0x1D, tr.slen),
   (0x1E, tr.spos), (0x20, tr.dlvl), (0x21, tr.dfb), (0x22, tr.dspr), (0x23, tr.dlag), (0x24, BitVec.ofNat 32 tr.dwp.val),
   (0x25, tr.drp), (0x26, tr.drate), (0x27, tr.dcnt)]

/-- The high-pass units' and the reverb's registers of a track (R28). -/
def filterRegisters (tr : Track) : List (BitVec 8 × Word) :=
  [(0x28, tr.hpf[0].cut), (0x29, tr.hpf[1].cut), (0x2A, tr.hpf[2].cut), (0x2C, tr.hpf[0].coef), (0x2D, tr.hpf[1].coef),
   (0x2E, tr.hpf[2].coef), (0x30, tr.hpf[0].x1), (0x31, tr.hpf[1].x1), (0x32, tr.hpf[2].x1), (0x34, tr.hpf[0].y1),
   (0x35, tr.hpf[1].y1), (0x36, tr.hpf[2].y1), (0x38, tr.rbus), (0x40, tr.apidx[0].setWidth 32), (0x41, tr.apidx[1].setWidth 32),
   (0x42, tr.apidx[2].setWidth 32), (0x43, tr.apidx[3].setWidth 32), (0x44, tr.apidx[4].setWidth 32),
   (0x45, tr.apidx[5].setWidth 32), (0x46, tr.apidx[6].setWidth 32), (0x47, tr.apidx[7].setWidth 32)]

/-- The constants of the all-pass stages: APFB and APLEN (R28, R41). -/
def stageConstants : List (BitVec 8 × Word) :=
  [(0x48, 0x3F000000), (0x49, 0x3F000000), (0x4A, 0x3F000000), (0x4B, 0x3F000000), (0x4C, 0x3F000000), (0x4D, 0x3F000000),
   (0x4E, 0x3F000000), (0x4F, 0x3F000000), (0x50, 556), (0x51, 441), (0x52, 341), (0x53, 225), (0x54, 579), (0x55, 464),
   (0x56, 364), (0x57, 248)]

/-- The per-track registers and what a read returns: all 70 rows of R28. -/
def trackRegisters (tr : Track) : List (BitVec 8 × Word) := voiceRegisters tr ++ unitRegisters tr ++ filterRegisters tr ++ stageConstants

/-- The per-track level registers and their lower bounds; the upper bound is 1.0 (R29, R30, R32, R38). -/
def levelRegisters : List (BitVec 8 × F32) :=
  [(0x00, 0), (0x01, fMinusOne), (0x04, 0), (0x05, 0), (0x08, 0), (0x20, 0), (0x21, 0), (0x22, 0)]

/-- The per-track integer registers with a clamp and their bounds, BPM apart (R31, R32). -/
def countRegisters : List (BitVec 8 × Nat × Nat) := [(0x02, 0, 1), (0x03, 0, 127), (0x06, 1, 65535)]

/-- The reset column of R26, as R291 collects it. -/
def globalResetValues : List (BitVec 8 × Word) :=
  [(0x80, 0), (0x81, 0), (0x82, 0), (0x83, 0), (0x84, 0), (0x85, 0), (0x86, 0), (0x87, 0), (0x88, 0x00040204), (0x89, 1024),
   (0x8A, 44100), (0x8B, 44100), (0x8C, 0x08000080), (0x8D, 262144)]

/-- The reset column of R28, as R291 collects it. -/
def trackResetValues : List (BitVec 8 × Word) :=
  [(0x00, 0x3F800000), (0x01, 0), (0x02, 0), (0x03, 48), (0x04, 0), (0x05, 0), (0x06, 1024), (0x08, 0x3F800000), (0x09, 120),
   (0x0A, 5512), (0x0B, 0), (0x0C, 0), (0x10, 0), (0x11, 0), (0x12, 0), (0x13, 0), (0x14, 0), (0x15, 0), (0x18, 0), (0x19, 0),
   (0x1A, 0), (0x1B, 0), (0x1C, 0), (0x1D, 0), (0x1E, 0), (0x20, 0x3F800000), (0x21, 0x3F000000), (0x22, 0), (0x23, 22050),
   (0x24, 0), (0x25, 0x56220000), (0x26, 0x00010000), (0x27, 0)] ++
  [(0x28, 0x42C80000), (0x29, 0x42C80000), (0x2A, 0x41A00000), (0x2C, 0x3F7C6764), (0x2D, 0x3F7C6764), (0x2E, 0x3F7F45CA),
   (0x30, 0), (0x31, 0), (0x32, 0), (0x34, 0), (0x35, 0), (0x36, 0), (0x38, 0), (0x40, 0), (0x41, 0), (0x42, 0), (0x43, 0),
   (0x44, 0), (0x45, 0), (0x46, 0), (0x47, 0)] ++ stageConstants

/-! ## Invariants -/

/-- A value in [lo, hi], so no NaN. -/
abbrev Between (lo v hi : F32) : Prop := fle lo v = true ∧ fle v hi = true

/-- The legal values of a track's writable registers, and SPS for its BPM (R28, R33). -/
abbrev Track.ConfigLegal (tr : Track) : Prop :=
  Between 0 tr.vol fOne ∧ Between fMinusOne tr.pan fOne ∧ Between 0 tr.dsend fOne ∧ Between 0 tr.rsend fOne ∧
  Between 0 tr.seqvol fOne ∧ Between 0 tr.dlvl fOne ∧ Between 0 tr.dfb fOne ∧ Between 0 tr.dspr fOne ∧
  1 ≤ tr.glide.toNat ∧ 1 ≤ tr.bpm.toNat ∧ tr.sps.toNat = 661500 / tr.bpm.toNat ∧ tr.scnt.toNat ≤ 661500

/-- R148: frequency, increment and phase of the oscillator. -/
abbrev Track.OscLegal (tr : Track) : Prop :=
  Between 0 tr.ofreq f22050 ∧ tr.oinc = fdiv tr.ofreq f44100 ∧ Between 0 tr.oinc fHalf ∧ fle 0 tr.ophase = true ∧
  flt tr.ophase fOne = true

/-- R37, R145: the sampler's buffer ends inside SM and the position inside the buffer. -/
abbrev Track.SamplerLegal (tr : Track) : Prop :=
  tr.sbase.toNat + tr.slen.toNat ≤ Config.SMEMLEN ∧ tr.spos.toNat ≤ tr.slen.toNat

/-- R176: the lag of the delay and what a retiming has still to do, which is nothing only when DRATE = 0x10000 (R179 starts no
retiming of length 0, R178 ends one at 0). DWP in 0..CAP-1 is its type's. -/
abbrev Track.DelayLegal (tr : Track) : Prop :=
  tr.drp.toNat < Config.RINGMOD ∧ 1 ≤ tr.dlag.toNat ∧ tr.dlag.toNat ≤ Config.CAP - 1 ∧
  currentLag tr % 0x8000 = 0 ∧ 65536 ≤ currentLag tr ∧ currentLag tr ≤ (Config.CAP - 1) * 65536 ∧
  ((tr.drate = 0x00018000 ∧ tr.dcnt ≠ 0 ∧ currentLag tr = tr.dlag.toNat * 65536 + tr.dcnt.toNat * 0x8000) ∨
   (tr.drate = 0x00008000 ∧ tr.dcnt ≠ 0 ∧ currentLag tr + tr.dcnt.toNat * 0x8000 = tr.dlag.toNat * 65536) ∨
   (tr.drate = 0x00010000 ∧ tr.dcnt = 0 ∧ currentLag tr = tr.dlag.toNat * 65536))

/-- R160: every all-pass index is inside its buffer. -/
abbrev Track.ReverbLegal (tr : Track) : Prop := ∀ u : Fin Config.NSTAGE, tr.apidx[u.val].toNat < Config.REVLEN u

/-- R28, R166: cutoffs in [0, 22050] and coefficients in (0, 1]. -/
abbrev Track.FilterLegal (tr : Track) : Prop :=
  ∀ u : Fin Config.NHPF, Between 0 tr.hpf[u.val].cut f22050 ∧ flt 0 tr.hpf[u.val].coef = true ∧ fle tr.hpf[u.val].coef fOne = true

/-- R234: one of the five engine states, and no sink is viable outside a run. -/
abbrev Status.Legal (st : Status) : Prop :=
  (st.active = false → st.running = false ∧ st.paused = false ∧ st.devok = false ∧ st.capok = false) ∧
  (st.active = true → st.fatal = false)

/-- Everything that keeps a step from touching an element that does not exist (R60, R145, R148, R160). -/
abbrev State.UnitsLegal (s : State) : Prop :=
  ∀ k : Fin Config.NTRK, (s.track k).OscLegal ∧ (s.track k).SamplerLegal ∧ (s.track k).ReverbLegal

/-- The listed bytes are bytes of elements R60 gives, and a flag element holds 0 or 1. -/
def State.ElementsOnly (s : State) : Prop :=
  ∀ c ∈ s.mem, ∃ sp a j, ElementOf sp a ∧ j < sp.width ∧ c.1 = sp.cell a + j ∧
    ((sp = .pp ∨ sp = .pa ∨ sp = .ps) → c.2 = 0 ∨ c.2 = 1)

/-- FT is strictly increasing and holds no NaN (R147, R300). -/
abbrev State.TableIncreasing (s : State) : Prop :=
  (∀ n : Fin 128, isNaN (s.ft n.val) = false) ∧ ∀ n : Fin 127, flt (s.ft n.val) (s.ft (n.val + 1)) = true

end Sys2Proof.Machine
end

