-- ==== Sys2Proof/Certificates/Slice0/Obligations.lean ====
section
/-! DEFINITION. The statements for the provers, from the numbered rules of spec/. A statement about a command says that it
answers a next state, what that state holds, and what it leaves alone. -/

open Sys2Proof Sys2Proof.Machine

/-! ## Encoding -/

/-- The words R98 and the command rules write out decode to their commands. -/
def Obligations.KnownWordsDecode : Prop :=
  decode 0x11003000 = .ok (.oscTick 3 0) ∧ decode 0x20152100 = .ok (.apfProc 2 1 5 1) ∧
  decode 0x05004501 = .ok (.ldm 4 0 5 true) ∧ decode 0x06030120 = .ok (.stm 3 1 false 2) ∧
  decode 0x04270001 = .ok (.csrw 2 0x01 7) ∧ decode 0x4800010C = .ok (.voxTrig 0 12 true false) ∧
  decode 0x12000120 = .ok (.smpSets 0 1 2) ∧ decode 0x15000003 = .ok (.wtSeal 3) ∧ decode 0x51004200 = .ok (.mixPan 4 0 2)

/-- Decoding the word of a command gives the command back, with every operand (R92, R94). -/
def Obligations.DecodeEncode : Prop := ∀ i, WellFormed i = true → decode (encode i) = .ok i

/-- Every word that decodes is the word of the command it decodes to: no bit is dropped (R94, R95). -/
def Obligations.EncodeDecode : Prop := ∀ w i, decode w = .ok i → encode i = w ∧ WellFormed i = true

/-- A word is a command exactly when it matches a row of the opcode table and has no track beside a global index; any other word
raises ILLCMD, goes into ERRINFO and changes nothing else (R95). -/
def Obligations.WordIsCommandOrIllegal : Prop :=
  (∀ w, (∃ j, w &&& (rowOf j).mask = (rowOf j).pattern) → globalCsrWithTrack w = false →
    ∃ i, decode w = .ok i ∧ w &&& (rowOf i).mask = (rowOf i).pattern) ∧
  (∀ w, (¬∃ j, w &&& (rowOf j).mask = (rowOf j).pattern) ∨ globalCsrWithTrack w = true →
    ∀ s, commandTurn w s = .next { s with err := s.err ||| 0x001, errinfo := w }) ∧
  decode 0x00000000 = .ok .nop ∧ ∀ s, commandTurn 0xFFFFFFFF s = .next { s with err := s.err ||| 0x001, errinfo := 0xFFFFFFFF }

/-! ## Steps -/

/-- A command word at the port is decoded and executed by the step, which uses its turn up and does nothing else (R70, R90);
that a turn is scripted is the model's (assumption 1). -/
def Obligations.StepRunsCommand : Prop :=
  (∀ s w rest i, s.inputs.turns = .command w :: rest → decode w = .ok i →
    step s = exec i { s with inputs := { s.inputs with turns := rest } }) ∧
  ∀ s w i, decode w = .ok i → step (s.withFetchWord 32 w.toNat) = exec i s

/-- A command is rejected by the first check of R263 it fails, with that condition's bit and its word and nothing else changed;
one that passes them all sets no rejection bit and leaves ERRINFO (R261, R263). -/
def Obligations.FirstFailingCheckRejects : Prop :=
  (∀ w s e, decode w = .error e → commandTurn w s = .next { s with err := s.err ||| 0x001, errinfo := w }) ∧
  (∀ i s c, Rejected i s c → exec i s = .next { s with err := s.err ||| BitVec.twoPow 11 c.code, errinfo := encode i }) ∧
  ∀ i s u, (∀ c, ¬Rejected i s c) → exec i s = .next u → u.errinfo = s.errinfo ∧ u.err &&& 0x03F &&& ~~~s.err = 0

/-- The agent's turn: nothing moves while it is not enabled; stopped at the boundary it disposes (R237, R240). That a turn without
an enabled step leaves the state as it is is the model's (assumption 10). -/
def Obligations.AgentWaitsOrDisposes : Prop :=
  ∀ s rest, s.inputs.turns = .agent :: rest →
    ((s.status.active = false ∨
        (s.rpos.pframe = 0 ∧ s.rpos.slot = 0 ∧ s.status.running = true ∧ s.status.paused = true)) →
      step s = .next { s with inputs := { s.inputs with turns := rest } }) ∧
    (s.status.active = true → s.rpos.pframe = 0 → s.rpos.slot = 0 → s.status.running = false →
      ∃ u, step s = .next u ∧ u.events = s.events ++ [.dispose s.bytecnt s.status.capok] ∧
        u.status = { s.status with active := false, paused := false, devok := false, capok := false } ∧
        u.inputs = { s.inputs with turns := rest } ∧
        { u with events := s.events, status := s.status, inputs := s.inputs } = s)

/-- An enabled slot of the agent is the command of the same name issued in DIRECT mode: the same state, with the mode and the next
slot put in (R236, R238, R280). -/
def Obligations.AgentSlotIsCommand : Prop :=
  ∀ s u, s.status.active = true → ¬(s.rpos.pframe = 0 ∧ s.rpos.slot = 0 ∧ (s.status.running = false ∨ s.status.paused = true)) →
    exec (scheduled s.rpos.slot) s.direct = .next u →
    agentTurn s = .next { u with status := { u.status with active := true }, rpos := { u.rpos with slot := s.rpos.slot + 1 } }

/-- What the agent's turn cannot touch: X, ERRINFO, the rejection bits, the configuration of every track, and the bytes of the
spaces it only reads; and how it moves RPOS: not at all while it is not enabled or disposes, else to the next slot, from the last
slot to the next frame, and from the last frame to the next buffer (R21, R237, R241, R260). -/
def Obligations.AgentStaysInItsPart : Prop :=
  ∀ s u, agentTurn s = .next u →
    u.x = s.x ∧ u.errinfo = s.errinfo ∧ u.err &&& 0x03F = s.err &&& 0x03F ∧
    (∀ k, ∀ p ∈ trackRegisters (s.track k), p.1.toNat ≤ 0x0A ∨ p.1 = 0x1C ∨ p.1 = 0x1D ∨
      (0x20 ≤ p.1.toNat ∧ p.1.toNat ≤ 0x23) ∨ (0x28 ≤ p.1.toNat ∧ p.1.toNat ≤ 0x2E) → p ∈ trackRegisters (u.track k)) ∧
    (∀ sp a, sp ≠ .dl → sp ≠ .dr → sp ≠ .ap → sp ≠ .pb → ElementOf sp a → u.memRead sp a = s.memRead sp a) ∧
    u.rpos =
      (if s.status.active = false ∨
          (s.rpos.pframe = 0 ∧ s.rpos.slot = 0 ∧ (s.status.running = false ∨ s.status.paused = true)) then s.rpos
      else if s.rpos.slot.val < 8 then { s.rpos with slot := s.rpos.slot + 1 }
      else if s.rpos.pframe.val < 1023 then { s.rpos with slot := 0, pframe := s.rpos.pframe + 1 }
      else ⟨s.rpos.pbuf + 1, 0, 0⟩)

/-! ## Reset -/

/-- The reset input gives the reset state from any state, with no event; only the inputs still to come stay, which are the
model's own (R290, assumption 9). -/
def Obligations.ResetFromAnyState : Prop :=
  ∀ s rest, s.inputs.turns = .reset :: rest →
    ∃ u, step s = .next u ∧ u.events = [] ∧ u.inputs = { s.inputs with turns := rest } ∧
      { u with inputs := State.reset.inputs } = State.reset

/-- Every register's value after reset, read through CSRR (R291). -/
def Obligations.ResetRegisters : Prop :=
  (∀ r, State.reset.getX r = 0) ∧ State.reset.rpos = ⟨0, 0, 0⟩ ∧
  ∀ rd, (∀ p ∈ globalResetValues, exec (.csrr rd 0 p.1) State.reset = .next (State.reset.setX rd p.2)) ∧
    ∀ k, ∀ p ∈ trackResetValues, exec (.csrr rd (trackField k) p.1) State.reset = .next (State.reset.setX rd p.2)

/-- Every element's contents after reset; FT is strictly increasing, holds no NaN, has 440 Hz at note 69 and stays below 22050
(R292, R293). -/
def Obligations.ResetMemory : Prop :=
  (∀ sp a, ElementOf sp a → State.reset.memRead sp a = resetElement sp a) ∧ State.reset.TableIncreasing ∧
  (∀ n : Fin 128, flt (State.reset.ft n.val) f22050 = true) ∧ valueOf (State.reset.ft 69) = 440

/-! ## Binary32 -/

/-- Comparisons follow the values, are false for a NaN, and clampf returns a bound or its argument (R10). -/
def Obligations.ComparisonsAndClamps : Prop :=
  (∀ a b, IsFinite a → IsFinite b → (flt a b = true ↔ valueOf a < valueOf b) ∧ (fle a b = true ↔ valueOf a ≤ valueOf b)) ∧
  (∀ a, IsFinite a → flt a plusInf = true ∧ flt (fneg plusInf) a = true) ∧ flt (fneg plusInf) plusInf = true ∧
  (∀ a b, isNaN a = false → isNaN b = false → fle a b = !flt b a ∧ (flt a b = true → flt b a = false)) ∧
  (∀ a, isNaN a = true ↔ a.extractLsb' 23 8 = 0xFF ∧ a.extractLsb' 0 23 ≠ 0) ∧
  (∀ a b, isNaN a = true ∨ isNaN b = true → flt a b = false ∧ fle a b = false) ∧
  (∀ v lo hi, clampfHit v lo hi = true ↔ clampf v lo hi ≠ v) ∧
  (∀ v lo hi, lo ≤ hi → clampu v lo hi = min (max v.toNat lo) hi ∧ (clampuHit v lo hi = true ↔ v.toNat < lo ∨ hi < v.toNat)) ∧
  (∀ v lo hi, isNaN v = true → clampf v lo hi = lo) ∧
  (∀ v lo hi, flt v lo = true → clampf v lo hi = lo) ∧
  (∀ v lo hi, flt v lo = false → flt hi v = true → clampf v lo hi = hi) ∧
  (∀ v lo hi, isNaN v = false → flt v lo = false → flt hi v = false → clampf v lo hi = v) ∧
  ∀ v lo hi, fle lo hi = true → Between lo (clampf v lo hi) hi

/-- NaN operands, invalid operations, infinities, division by zero, signed zeros, and the sign of every product and quotient, one
that underflows to zero included (R9). -/
def Obligations.SpecialResults : Prop :=
  (∀ a b, isNaN a = true ∨ isNaN b = true →
    fadd a b = canonicalNaN ∧ fsub a b = canonicalNaN ∧ fmul a b = canonicalNaN ∧ fdiv a b = canonicalNaN) ∧
  (∀ a, isInf a = true →
    fsub a a = canonicalNaN ∧ fadd a (fneg a) = canonicalNaN ∧ fadd a a = a ∧ fsub a (fneg a) = a ∧
    (∀ z, isZero z = true → fmul a z = canonicalNaN ∧ fmul z a = canonicalNaN) ∧
    ∀ b, isInf b = true → fdiv a b = canonicalNaN ∧ fmul a b = withSign (fsign a != fsign b) 0x7F800000) ∧
  (∀ a x, isInf a = true → IsFinite x →
    fadd a x = a ∧ fadd x a = a ∧ fsub a x = a ∧ fsub x a = fneg a ∧ fdiv x a = withSign (fsign x != fsign a) 0 ∧
    fdiv a x = withSign (fsign a != fsign x) 0x7F800000 ∧
    (isZero x = false →
      fmul a x = withSign (fsign a != fsign x) 0x7F800000 ∧ fmul x a = withSign (fsign x != fsign a) 0x7F800000)) ∧
  (∀ y z, isZero y = true → isZero z = true → fdiv y z = canonicalNaN) ∧
  (∀ a z, IsFinite a → isZero a = false → isZero z = true →
    fdiv a z = withSign (fsign a != fsign z) 0x7F800000 ∧ fdiv z a = withSign (fsign z != fsign a) 0) ∧
  (∀ a, IsFinite a → fsub a a = 0 ∧ fadd a (fneg a) = 0) ∧
  fadd 0 0 = 0 ∧ fadd 0 0x80000000 = 0 ∧ fadd 0x80000000 0 = 0 ∧ fadd 0x80000000 0x80000000 = 0x80000000 ∧
  (∀ a z, IsFinite a → isZero z = true →
    fmul a z = withSign (fsign a != fsign z) 0 ∧ fmul z a = withSign (fsign z != fsign a) 0) ∧
  ∀ a b, IsFinite a → IsFinite b →
    fsign (fmul a b) = (fsign a != fsign b) ∧ (isZero b = false → fsign (fdiv a b) = (fsign a != fsign b))

/-- Sum, difference, product and quotient of finite operands are the exact result rounded once to nearest even, or an infinity of
its sign when that overflows; fsub(a,b) is fadd(a,-b) for all operands (R9). -/
def Obligations.RoundedOnceToNearestEven : Prop :=
  (∀ a b, fsub a b = fadd a (b ^^^ 0x80000000)) ∧
  ∀ a b, IsFinite a → IsFinite b →
    (|valueOf a - valueOf b| < 2 ^ 128 - 2 ^ 103 → NearestEven (fsub a b) (valueOf a - valueOf b)) ∧
    (2 ^ 128 - 2 ^ 103 ≤ |valueOf a - valueOf b| →
      fsub a b = withSign (decide (valueOf a - valueOf b < 0)) 0x7F800000) ∧
    (|valueOf a + valueOf b| < 2 ^ 128 - 2 ^ 103 → NearestEven (fadd a b) (valueOf a + valueOf b)) ∧
    (2 ^ 128 - 2 ^ 103 ≤ |valueOf a + valueOf b| →
      fadd a b = withSign (decide (valueOf a + valueOf b < 0)) 0x7F800000) ∧
    (|valueOf a * valueOf b| < 2 ^ 128 - 2 ^ 103 → NearestEven (fmul a b) (valueOf a * valueOf b)) ∧
    (2 ^ 128 - 2 ^ 103 ≤ |valueOf a * valueOf b| →
      fmul a b = withSign (decide (valueOf a * valueOf b < 0)) 0x7F800000) ∧
    (valueOf b ≠ 0 → |valueOf a / valueOf b| < 2 ^ 128 - 2 ^ 103 → NearestEven (fdiv a b) (valueOf a / valueOf b)) ∧
    (valueOf b ≠ 0 → 2 ^ 128 - 2 ^ 103 ≤ |valueOf a / valueOf b| →
      fdiv a b = withSign (decide (valueOf a / valueOf b < 0)) 0x7F800000)

/-- The conversions: i2f is nearest and exact up to 2^24, ffloor is the floor, and the decimal constants stand for their values
(R11). -/
def Obligations.Conversions : Prop :=
  (∀ n : Int, n.natAbs < 2 ^ 128 - 2 ^ 103 → NearestEven (i2f n) n) ∧
  (∀ n : Int, n.natAbs ≤ 2 ^ 24 → valueOf (i2f n) = n) ∧
  (∀ a, IsFinite a → ∃ n, ffloor a = some n ∧ (n : ℚ) ≤ valueOf a ∧ valueOf a < n + 1) ∧
  valueOf fHalf = 1 / 2 ∧ valueOf fOne = 1 ∧ valueOf fOneHalf = 3 / 2 ∧ valueOf fTwo = 2 ∧ valueOf fTwoHalf = 5 / 2 ∧
  valueOf f32767 = 32767 ∧ valueOf f32768 = 32768 ∧ valueOf f44100 = 44100 ∧ valueOf f22050 = 22050 ∧ valueOf f2048 = 2048 ∧
  valueOf fTwoPowMinus16 = 1 / 65536 ∧ Config.TWO_PI = 0x40C90FDB

/-- pcm16 saturates at both ends, gives 0 for a NaN and truncates toward zero between; MIX.CVT returns it sign-extended and changes
nothing else (R12, R228). -/
def Obligations.PcmConversion : Prop :=
  (∀ v, isNaN (fmul v f32767) = true → pcm16 v = 0) ∧
  (∀ v, fle f32767 (fmul v f32767) = true → (pcm16 v).toInt = 32767) ∧
  (∀ v, fle (fmul v f32767) fMinus32768 = true → (pcm16 v).toInt = -32768) ∧
  (∀ v, fle fMinus32768 (fmul v f32767) = true → fle (fmul v f32767) f32767 = true →
    (0 ≤ valueOf (fmul v f32767) → (pcm16 v).toInt = ⌊valueOf (fmul v f32767)⌋) ∧
    (valueOf (fmul v f32767) ≤ 0 → (pcm16 v).toInt = ⌈valueOf (fmul v f32767)⌉)) ∧
  pcm16 fHalf = 0x3FFF ∧ pcm16 fOneHalf = 0x7FFF ∧
  ∀ s rd rs, ∃ u, exec (.mixCvt rd rs) s = .next u ∧ (u.getX rd).toInt = (pcm16 (s.getX rs)).toInt ∧ OnlyX s u [rd]

/-! ## Registers and memory -/

/-- NOP changes nothing, LIL and LIH load a half, from their words; a NOP word with any other bit, and an LIL or LIH word with a
track, is illegal (R120, R121, R122). -/
def Obligations.NopAndLoadImmediate : Prop :=
  ∀ s, (exec .nop s = .next s ∧ encode .nop = 0 ∧
      ∀ low : BitVec 24, low ≠ 0 → commandTurn (0x00#8 ++ low) s = .next { s with err := s.err ||| 0x001, errinfo := 0x00#8 ++ low }) ∧
    ∀ (rd : Reg) (imm : BitVec 16),
      (∃ u, exec (.lil rd imm) s = .next u ∧ (u.getX rd).toNat = imm.toNat ∧ OnlyX s u [rd]) ∧
      (encode (.lil rd imm)).toNat = 0x01000000 + rd.toNat * 65536 + imm.toNat ∧
      (∃ u, exec (.lih rd imm) s = .next u ∧ (u.getX rd).toNat = imm.toNat * 65536 + (s.getX rd).toNat % 65536 ∧ OnlyX s u [rd]) ∧
      (encode (.lih rd imm)).toNat = 0x02000000 + rd.toNat * 65536 + imm.toNat ∧
      ∀ (op : BitVec 8) (t : BitVec 4), (op = 0x01 ∨ op = 0x02) → t ≠ 0 →
        commandTurn (op ++ t ++ rd ++ imm) s = .next { s with err := s.err ||| 0x001, errinfo := op ++ t ++ rd ++ imm }

/-- CSRR returns every register of R26 and R28 under its index, and changes only its destination (R22, R23, R123). -/
def Obligations.CsrrReadsEveryRegister : Prop :=
  ∀ s rd, (∀ p ∈ globalRegisters s, ∃ u, exec (.csrr rd 0 p.1) s = .next u ∧ u.getX rd = p.2 ∧ OnlyX s u [rd]) ∧
    ∀ k, ∀ p ∈ trackRegisters (s.track k),
      ∃ u, exec (.csrr rd (trackField k) p.1) s = .next u ∧ u.getX rd = p.2 ∧ OnlyX s u [rd]

/-- CSRW to a level stores the clamped value, flags CLAMP when that changed it, and leaves every other register alone (R29, R30,
R32, R38, R124). -/
def Obligations.CsrwClampsLevels : Prop :=
  ∀ s k rs, ∀ p ∈ levelRegisters, ∃ u, exec (.csrw (trackField k) p.1 rs) s = .next u ∧
    (p.1, clampf (s.getX rs) p.2 fOne) ∈ trackRegisters (u.track k) ∧
    (∀ q ∈ trackRegisters (s.track k), q.1 ≠ p.1 → q ∈ trackRegisters (u.track k)) ∧
    u.err = errClamped s (clampf (s.getX rs) p.2 fOne != s.getX rs) ∧ Keeps s u [] [k] []

/-- CSRW to KIND, ROOT, GLIDE and BPM stores the clamped integer and flags CLAMP when that changed it; BPM also sets SPS to
661500 div BPM; every other register stays (R31, R32, R33, R124). -/
def Obligations.CsrwClampsCounts : Prop :=
  ∀ s k rs,
    (∀ p ∈ countRegisters, ∃ u, exec (.csrw (trackField k) p.1 rs) s = .next u ∧
      (p.1, BitVec.ofNat 32 (min (max (s.getX rs).toNat p.2.1) p.2.2)) ∈ trackRegisters (u.track k) ∧
      (∀ q ∈ trackRegisters (s.track k), q.1 ≠ p.1 → q ∈ trackRegisters (u.track k)) ∧
      u.err = errClamped s (decide ((s.getX rs).toNat < p.2.1) || decide (p.2.2 < (s.getX rs).toNat)) ∧ Keeps s u [] [k] []) ∧
    ∃ u, exec (.csrw (trackField k) 0x09 rs) s = .next u ∧
      (u.track k).bpm.toNat = min (max (s.getX rs).toNat 1) 65535 ∧ (u.track k).sps.toNat = 661500 / (u.track k).bpm.toNat ∧
      u.track k = { s.track k with bpm := (u.track k).bpm, sps := (u.track k).sps } ∧
      u.err = errClamped s (decide ((s.getX rs).toNat < 1) || decide (65535 < (s.getX rs).toNat)) ∧ Keeps s u [] [k] []

/-- CSRW to ERR clears exactly the bits that are set in the written word; ERRINFO and all else stay (R124, R268). -/
def Obligations.CsrwAcknowledges : Prop :=
  ∀ s rs, ∃ u, exec (.csrw 0 0x81 rs) s = .next u ∧
    (∀ i, i < 11 → u.err.getLsbD i = (s.err.getLsbD i && !(s.getX rs).getLsbD i)) ∧ Keeps s u [] [] []

/-- LDM loads the element at X[ra]; a post-increment is written first, so with rd = ra the loaded value wins (R125). -/
def Obligations.LdmLoadsElement : Prop :=
  ∀ s rd n ra post sp, n.toNat = sp.index → ElementOf sp (s.getX ra).toNat →
    ∃ u, exec (.ldm rd n ra post) s = .next u ∧ u.getX rd = s.memRead sp (s.getX ra).toNat ∧
      (post = true → ra ≠ rd → u.getX ra = s.getX ra + 1) ∧ OnlyX s u (if post then [rd, ra] else [rd])

/-- STM stores X[rv], converted to the element's width, at X[ra]; no other element and no byte outside the element changes (R60,
R61, R63, R126). -/
def Obligations.StmStoresElement : Prop :=
  ∀ s n ra post rv sp, n.toNat = sp.index → sp ≠ .pb → ElementOf sp (s.getX ra).toNat →
    (s.status.active = false ∨ sp = .pn ∨ sp = .pp ∨ sp = .pa ∨ sp = .ps) →
    ∃ u, exec (.stm n ra post rv) s = .next u ∧ u.memRead sp (s.getX ra).toNat = converted sp (s.getX rv) ∧
      (∀ sp' b, ElementOf sp' b → (sp' ≠ sp ∨ b ≠ (s.getX ra).toNat) → u.memRead sp' b = s.memRead sp' b) ∧
      (post = true → u.getX ra = s.getX ra + 1) ∧ u.err = s.err ∧
      Keeps s u (if post then [ra] else []) [] [(sp.cell (s.getX ra).toNat, sp.width)]

/-- CVT.S16 gives exactly the signed low half divided by 32768, in [-1, 1 - 2^-15], and +0.0 for 0 (R127). -/
def Obligations.CvtScalesExactly : Prop :=
  ∀ s rd rs, ∃ u, exec (.cvtS16 rd rs) s = .next u ∧ IsFinite (u.getX rd) ∧
    valueOf (u.getX rd) = (((s.getX rs).extractLsb' 0 16).toInt : ℚ) / 32768 ∧
    -1 ≤ valueOf (u.getX rd) ∧ valueOf (u.getX rd) ≤ 1 - 1 / 32768 ∧
    ((s.getX rs).extractLsb' 0 16 = 0 → u.getX rd = 0) ∧ OnlyX s u [rd]

/-! ## Oscillator and sampler -/

/-- OSC.SETF: the clamped frequency, its increment, the sought table; the phase and all else stay (R140). -/
def Obligations.SetfSetsFrequency : Prop :=
  ∀ s k rs, s.status.active = false →
    ∃ u, exec (.oscSetf (trackField k) rs) s = .next u ∧
      u.track k = { s.track k with
        ofreq := clampf (s.getX rs) 0 f22050
        oinc := fdiv (clampf (s.getX rs) 0 f22050) f44100
        owti := seekTable s (clampf (s.getX rs) 0 f22050) (s.track k).owti } ∧
      u.err = errClamped s (clampf (s.getX rs) 0 f22050 != s.getX rs) ∧ Keeps s u [] [k] []

/-- With FT increasing, OSC.SETF leaves the largest table whose pitch is at most the frequency, or 0 when there is none, wherever it
started; a higher frequency never gives a lower table. With any FT it leaves the index where the two loops of R140 end: up from the
old index while the next pitch is at most the frequency, then down while the frequency is below the pitch (R140, R147). -/
def Obligations.SeekFindsLargestTable : Prop :=
  (∀ s k rs u, s.status.active = false → s.TableIncreasing → exec (.oscSetf (trackField k) rs) s = .next u →
    (∀ m : Fin 128, fle (s.ft m.val) (u.track k).ofreq = true → m.val ≤ (u.track k).owti.toNat) ∧
    (fle (s.ft (u.track k).owti.toNat) (u.track k).ofreq = true ∨
      ((u.track k).owti = 0 ∧ ∀ m : Fin 128, fle (s.ft m.val) (u.track k).ofreq = false))) ∧
  (∀ s k j rs rt u v, s.status.active = false → s.TableIncreasing → exec (.oscSetf (trackField k) rs) s = .next u →
    exec (.oscSetf (trackField j) rt) s = .next v → fle (u.track k).ofreq (v.track j).ofreq = true →
    (u.track k).owti.toNat ≤ (v.track j).owti.toNat) ∧
  ∀ s k rs u, s.status.active = false → exec (.oscSetf (trackField k) rs) s = .next u →
    ∃ top, (s.track k).owti.toNat ≤ top ∧ top ≤ 127 ∧
      (∀ m, (s.track k).owti.toNat < m → m ≤ top → fle (s.ft m) (u.track k).ofreq = true) ∧
      (top = 127 ∨ fle (s.ft (top + 1)) (u.track k).ofreq = false) ∧ (u.track k).owti.toNat ≤ top ∧
      (∀ m, (u.track k).owti.toNat < m → m ≤ top → flt (u.track k).ofreq (s.ft m) = true) ∧
      ((u.track k).owti = 0 ∨ flt (u.track k).ofreq (s.ft (u.track k).owti.toNat) = false)

/-- OSC.TICK: the phase advances and wraps, the table is read at its floor, the fraction is exact, and the result is the cubic
through the four samples in the operation order of R142; at fraction 0 it is y1, when the coefficients are finite and y1 is no
zero (R141, R142, R148; what R142 says beside its pseudocode, assumption 19). -/
def Obligations.OscTickInterpolates : Prop :=
  ∀ s k rd, s.status.active = false → (s.track k).OscLegal →
    ∃ (u : State) (i : Nat) (x y0 y1 y2 y3 c1 c2 c3 : F32), exec (.oscTick rd (trackField k)) s = .next u ∧
      (u.track k).ophase = (if fle fOne (fadd (s.track k).ophase (s.track k).oinc) then
        fsub (fadd (s.track k).ophase (s.track k).oinc) fOne else fadd (s.track k).ophase (s.track k).oinc) ∧
      i < 2048 ∧ IsFinite x ∧ (i : ℚ) + valueOf x = valueOf (u.track k).ophase * 2048 ∧ 0 ≤ valueOf x ∧ valueOf x < 1 ∧
      y0 = s.memRead .wt ((s.track k).owti.toNat * 4096 + i) ∧ y1 = s.memRead .wt ((s.track k).owti.toNat * 4096 + i + 1) ∧
      y2 = s.memRead .wt ((s.track k).owti.toNat * 4096 + i + 2) ∧ y3 = s.memRead .wt ((s.track k).owti.toNat * 4096 + i + 3) ∧
      c1 = fmul 0x3F000000 (fsub y2 y0) ∧
      c2 = fsub (fadd (fsub y0 (fmul 0x40200000 y1)) (fmul 0x40000000 y2)) (fmul 0x3F000000 y3) ∧
      c3 = fadd (fmul 0x3F000000 (fsub y3 y0)) (fmul 0x3FC00000 (fsub y1 y2)) ∧
      u.getX rd = fadd (fmul (fadd (fmul (fadd (fmul c3 x) c2) x) c1) x) y1 ∧
      (valueOf x = 0 → IsFinite c1 → IsFinite c2 → IsFinite c3 → IsFinite y1 → isZero y1 = false → u.getX rd = y1) ∧
      u.track k = { s.track k with ophase := (u.track k).ophase } ∧ u.err = s.err ∧ Keeps s u [rd] [k] []

/-- SMP.SETS takes base and length, cut to the sample memory with CLAMP, and puts the position to 0, in both modes (R143). -/
def Obligations.SetsTakesBuffer : Prop :=
  ∀ s k rb rl, ∃ u, exec (.smpSets (trackField k) rb rl) s = .next u ∧
    (u.track k).sbase.toNat = min (s.getX rb).toNat 262144 ∧
    (u.track k).slen.toNat = min (s.getX rl).toNat (262144 - (u.track k).sbase.toNat) ∧
    u.track k = { s.track k with sbase := (u.track k).sbase, slen := (u.track k).slen, spos := 0 } ∧
    u.err = errClamped s (decide (262144 < (s.getX rb).toNat) || decide (262144 < (s.getX rb).toNat + (s.getX rl).toNat)) ∧
    Keeps s u [] [k] []

/-- SMP.TICK returns the next sample and moves on, or +0.0 at the end; SMP.TRIG goes back to the start (R144, R145). -/
def Obligations.SamplerPlaysOnce : Prop :=
  ∀ s k rd, s.status.active = false →
    ((s.track k).SamplerLegal → (s.track k).spos.toNat < (s.track k).slen.toNat →
      ∃ u, exec (.smpTick rd (trackField k)) s = .next u ∧
        u.getX rd = s.memRead .sm ((s.track k).sbase.toNat + (s.track k).spos.toNat) ∧
        u.track k = { s.track k with spos := (s.track k).spos + 1 } ∧ u.err = s.err ∧ Keeps s u [rd] [k] []) ∧
    ((s.track k).slen.toNat ≤ (s.track k).spos.toNat →
      ∃ u, exec (.smpTick rd (trackField k)) s = .next u ∧ u.getX rd = 0 ∧ OnlyX s u [rd]) ∧
    ∃ u, exec (.smpTrig (trackField k)) s = .next u ∧ u.track k = { s.track k with spos := 0 } ∧ u.err = s.err ∧ Keeps s u [] [k] []

/-- WT.SEAL copies the body's ends to the three guards and changes nothing else (R64, R146). -/
def Obligations.SealWritesGuards : Prop :=
  ∀ s (n : BitVec 7), s.status.active = false →
    ∃ u, exec (.wtSeal n) s = .next u ∧
      u.memRead .wt (n.toNat * 4096) = s.memRead .wt (n.toNat * 4096 + 2048) ∧
      u.memRead .wt (n.toNat * 4096 + 2049) = s.memRead .wt (n.toNat * 4096 + 1) ∧
      u.memRead .wt (n.toNat * 4096 + 2050) = s.memRead .wt (n.toNat * 4096 + 2) ∧ u.err = s.err ∧
      Keeps s u [] [] [wordArea .wt (n.toNat * 4096), wordArea .wt (n.toNat * 4096 + 2049), wordArea .wt (n.toNat * 4096 + 2050)]

/-! ## Filters -/

/-- APF.PROC: the output is formed from the slot before the write, the slot gets input plus half its content, and the index moves on
in its buffer (R161). -/
def Obligations.ApfProcFiltersOneSlot : Prop :=
  ∀ s k v rd rs, s.status.active = false → (s.track k).apidx[v.val].toNat < Config.REVLEN v →
    ∃ u, exec (.apfProc rd (trackField k) (stageField v) rs) s = .next u ∧
      u.getX rd = fsub (s.memRead .ap (stageAddr k v (s.track k).apidx[v.val].toNat)) (s.getX rs) ∧
      u.memRead .ap (stageAddr k v (s.track k).apidx[v.val].toNat) =
        fadd (s.getX rs) (fmul (s.memRead .ap (stageAddr k v (s.track k).apidx[v.val].toNat)) fHalf) ∧
      (u.track k).apidx[v.val].toNat = ((s.track k).apidx[v.val].toNat + 1) % Config.REVLEN v ∧
      (∀ w : Fin Config.NSTAGE, w ≠ v → (u.track k).apidx[w.val] = (s.track k).apidx[w.val]) ∧
      u.track k = { s.track k with apidx := (u.track k).apidx } ∧ u.err = s.err ∧
      Keeps s u [rd] [k] [wordArea .ap (stageAddr k v (s.track k).apidx[v.val].toNat)]

/-- With zero input a pass of one buffer length puts every stored value out once and leaves it halved, and the index where it was
(R163). -/
def Obligations.ApfDrainsByHalves : Prop :=
  ∀ s k v rd rs m, s.status.active = false → (s.track k).ReverbLegal → s.getX rs = 0 → rd ≠ rs → m ≤ Config.REVLEN v →
    ∃ u, runCommands (List.replicate m (.apfProc rd (trackField k) (stageField v) rs)) s = .next u ∧
      (u.track k).apidx[v.val].toNat = ((s.track k).apidx[v.val].toNat + m) % Config.REVLEN v ∧
      (0 < m → u.getX rd =
        fsub (s.memRead .ap (stageAddr k v (((s.track k).apidx[v.val].toNat + (m - 1)) % Config.REVLEN v))) 0) ∧
      ∀ i, i < m →
        u.memRead .ap (stageAddr k v (((s.track k).apidx[v.val].toNat + i) % Config.REVLEN v)) =
          fadd 0 (fmul (s.memRead .ap (stageAddr k v (((s.track k).apidx[v.val].toNat + i) % Config.REVLEN v))) fHalf)

/-- APF.MUTE zeroes one stage's buffer and leaves its index; REV.RST zeroes all eight, the indices and the bus, in both modes; no
other byte changes (R162, R198). -/
def Obligations.MutingZeroesBuffers : Prop :=
  (∀ s k v, s.status.active = false →
    ∃ u, exec (.apfMute (trackField k) (stageField v)) s = .next u ∧
      (∀ i, i < Config.REVLEN v → u.memRead .ap (stageAddr k v i) = 0) ∧ u.err = s.err ∧
      Keeps s u [] [] [(Space.ap.cell (stageAddr k v 0), 4 * Config.REVLEN v)]) ∧
  ∀ s k, ∃ u, exec (.revRst (trackField k)) s = .next u ∧
    (∀ v i, i < Config.REVLEN v → u.memRead .ap (stageAddr k v i) = 0) ∧
    u.track k = { s.track k with rbus := 0, apidx := Vector.replicate Config.NSTAGE 0 } ∧ u.err = s.err ∧
    Keeps s u [] [k] ((List.finRange Config.NSTAGE).map fun v => (Space.ap.cell (stageAddr k v 0), 4 * Config.REVLEN v))

/-- HPF.PROC: the recursion in its operation order, and the unit's history. HPF.SETC: the clamped cutoff and its coefficient, in (0, 1];
the history stays; both modes (R165, R166). -/
def Obligations.HighPassTickAndCutoff : Prop :=
  (∀ s k v rd rs, s.status.active = false →
    ∃ u, exec (.hpfProc rd (trackField k) (unitField v) rs) s = .next u ∧
      u.getX rd = fmul (s.track k).hpf[v.val].coef (fadd (s.track k).hpf[v.val].y1 (fsub (s.getX rs) (s.track k).hpf[v.val].x1)) ∧
      (u.track k).hpf[v.val] = { (s.track k).hpf[v.val] with x1 := s.getX rs, y1 := u.getX rd } ∧
      (∀ w : Fin Config.NHPF, w ≠ v → (u.track k).hpf[w.val] = (s.track k).hpf[w.val]) ∧
      u.track k = { s.track k with hpf := (u.track k).hpf } ∧ u.err = s.err ∧ Keeps s u [rd] [k] []) ∧
  ∀ s k v rs, ∃ u, exec (.hpfSetc (trackField k) (unitField v) rs) s = .next u ∧
    (u.track k).hpf[v.val] = { (s.track k).hpf[v.val] with
      cut := clampf (s.getX rs) 0 f22050
      coef := fdiv fOne (fadd fOne (fdiv (fmul 0x40C90FDB (clampf (s.getX rs) 0 f22050)) f44100)) } ∧
    flt 0 (u.track k).hpf[v.val].coef = true ∧ fle (u.track k).hpf[v.val].coef fOne = true ∧
    (∀ w : Fin Config.NHPF, w ≠ v → (u.track k).hpf[w.val] = (s.track k).hpf[w.val]) ∧
    u.track k = { s.track k with hpf := (u.track k).hpf } ∧
    u.err = errClamped s (clampf (s.getX rs) 0 f22050 != s.getX rs) ∧ Keeps s u [] [k] []

/-! ## Delay and reverb -/

/-- DLY.IN adds the scaled input onto the slot at the write cursor of both rings; REV.IN adds its input onto the bus (R177, R196). -/
def Obligations.InputsAccumulate : Prop :=
  ∀ s k rs, s.status.active = false →
    (∃ u, exec (.dlyIn (trackField k) rs) s = .next u ∧
      u.memRead .dl (ringAddr k (s.track k).dwp.val) =
        fadd (s.memRead .dl (ringAddr k (s.track k).dwp.val)) (fmul (s.getX rs) (s.track k).dlvl) ∧
      u.memRead .dr (ringAddr k (s.track k).dwp.val) =
        fadd (s.memRead .dr (ringAddr k (s.track k).dwp.val))
          (fmul (fmul (s.getX rs) (s.track k).dlvl) (fsub fOne (s.track k).dspr)) ∧ u.err = s.err ∧
      Keeps s u [] [] [wordArea .dl (ringAddr k (s.track k).dwp.val), wordArea .dr (ringAddr k (s.track k).dwp.val)]) ∧
    ∃ u, exec (.revIn (trackField k) rs) s = .next u ∧ u.track k = { s.track k with rbus := fadd (s.track k).rbus (s.getX rs) } ∧
      u.err = s.err ∧ Keeps s u [] [k] []

/-- DLY.OUT: both cursors advance, the pair is read before the write (a slot, or the crossfade of two), and the filtered feedback
goes into the ring (R178). -/
def Obligations.DelayReadsThenWrites : Prop :=
  ∀ s k rd, s.status.active = false →
    ∃ (u : State) (rp : Nat) (rL rR xL xR wL wR : F32), exec (.dlyOut rd (trackField k)) s = .next u ∧
      rp = ((s.track k).drp.toNat + (s.track k).drate.toNat) % (44100 * 65536) ∧ (u.track k).drp.toNat = rp ∧
      (u.track k).dwp.val = ((s.track k).dwp.val + 1) % 44100 ∧
      (rp % 65536 = 0 → rL = s.memRead .dl (ringAddr k (rp / 65536)) ∧ rR = s.memRead .dr (ringAddr k (rp / 65536))) ∧
      (rp % 65536 ≠ 0 →
        rL = fadd (fmul (s.memRead .dl (ringAddr k (rp / 65536))) (fsub fOne (fmul (i2f (rp % 65536 : Nat)) fTwoPowMinus16)))
          (fmul (s.memRead .dl (ringAddr k ((rp / 65536 + 1) % 44100))) (fmul (i2f (rp % 65536 : Nat)) fTwoPowMinus16)) ∧
        rR = fadd (fmul (s.memRead .dr (ringAddr k (rp / 65536))) (fsub fOne (fmul (i2f (rp % 65536 : Nat)) fTwoPowMinus16)))
          (fmul (s.memRead .dr (ringAddr k ((rp / 65536 + 1) % 44100))) (fmul (i2f (rp % 65536 : Nat)) fTwoPowMinus16))) ∧
      xL = fmul (s.track k).dfb (fadd (fmul rL (fsub fOne (s.track k).dspr)) (fmul rR (s.track k).dspr)) ∧
      xR = fmul (s.track k).dfb (fadd (fmul rR (fsub fOne (s.track k).dspr)) (fmul rL (s.track k).dspr)) ∧
      wL = fmul (s.track k).hpf[0].coef (fadd (s.track k).hpf[0].y1 (fsub xL (s.track k).hpf[0].x1)) ∧
      wR = fmul (s.track k).hpf[1].coef (fadd (s.track k).hpf[1].y1 (fsub xR (s.track k).hpf[1].x1)) ∧
      u.getX rd = rL ∧ u.getX (rd + 1) = rR ∧
      u.memRead .dl (ringAddr k (u.track k).dwp.val) = wL ∧ u.memRead .dr (ringAddr k (u.track k).dwp.val) = wR ∧
      (u.track k).dcnt.toNat = (s.track k).dcnt.toNat - 1 ∧
      (u.track k).drate = (if (s.track k).dcnt = 1 then 0x00010000 else (s.track k).drate) ∧
      (u.track k).hpf[0] = { (s.track k).hpf[0] with x1 := xL, y1 := wL } ∧
      (u.track k).hpf[1] = { (s.track k).hpf[1] with x1 := xR, y1 := wR } ∧ (u.track k).hpf[2] = (s.track k).hpf[2] ∧
      u.track k = { s.track k with
        dwp := (u.track k).dwp, drp := (u.track k).drp, dcnt := (u.track k).dcnt, drate := (u.track k).drate, hpf := (u.track k).hpf } ∧
      u.err = s.err ∧
      Keeps s u [rd, rd + 1] [k] [wordArea .dl (ringAddr k (u.track k).dwp.val), wordArea .dr (ringAddr k (u.track k).dwp.val)]

/-- DLY.SETT takes the time halved until it fits, at least 1, and sets the rate and the count that bring the lag there; no cursor
moves, in both modes (R179). -/
def Obligations.SettStartsRetiming : Prop :=
  ∀ s k rs, ∃ u m, exec (.dlySett (trackField k) rs) s = .next u ∧
    (s.getX rs).toNat / 2 ^ m ≤ 44099 ∧ (m ≠ 0 → 44099 < (s.getX rs).toNat / 2 ^ (m - 1)) ∧
    (u.track k).dlag.toNat = max ((s.getX rs).toNat / 2 ^ m) 1 ∧
    ((u.track k).dlag.toNat * 65536 < currentLag (s.track k) → (u.track k).drate = 0x00018000 ∧
      (u.track k).dcnt.toNat = (currentLag (s.track k) - (u.track k).dlag.toNat * 65536) / 2 ^ 15) ∧
    (currentLag (s.track k) < (u.track k).dlag.toNat * 65536 → (u.track k).drate = 0x00008000 ∧
      (u.track k).dcnt.toNat = ((u.track k).dlag.toNat * 65536 - currentLag (s.track k)) / 2 ^ 15) ∧
    (currentLag (s.track k) = (u.track k).dlag.toNat * 65536 → (u.track k).drate = 0x00010000 ∧ (u.track k).dcnt = 0) ∧
    u.track k = { s.track k with dlag := (u.track k).dlag, drate := (u.track k).drate, dcnt := (u.track k).dcnt } ∧
    u.err = errClamped s ((u.track k).dlag != s.getX rs) ∧ Keeps s u [] [k] []

/-- After a DLY.SETT that sets DCNT = n, n further DLY.OUT bring the lag to the new one by half-slot steps and end the retiming;
n is at most 88196 and the lag stays between 1 and CAP-1 slots (R181). -/
def Obligations.RetimingEndsOnTime : Prop :=
  ∀ s k rs rd u, s.status.active = false → (s.track k).DelayLegal → exec (.dlySett (trackField k) rs) s = .next u →
    ((u.track k).dcnt.toNat * 0x8000 + currentLag (s.track k) = (u.track k).dlag.toNat * 65536 ∨
      currentLag (s.track k) = (u.track k).dlag.toNat * 65536 + (u.track k).dcnt.toNat * 0x8000) ∧
    (u.track k).dcnt.toNat ≤ 88196 ∧
    ∀ m, m ≤ (u.track k).dcnt.toNat →
      ∃ v, runCommands (List.replicate m (.dlyOut rd (trackField k))) u = .next v ∧
        (v.track k).dcnt.toNat = (u.track k).dcnt.toNat - m ∧
        ((u.track k).drate = 0x00018000 → currentLag (v.track k) + m * 0x8000 = currentLag (s.track k)) ∧
        ((u.track k).drate = 0x00008000 → currentLag (v.track k) = currentLag (s.track k) + m * 0x8000) ∧
        65536 ≤ currentLag (v.track k) ∧ currentLag (v.track k) ≤ 44099 * 65536 ∧
        (m = (u.track k).dcnt.toNat →
          currentLag (v.track k) = (u.track k).dlag.toNat * 65536 ∧ (v.track k).drate = 0x00010000 ∧ (v.track k).dcnt = 0)

/-- REV.PROC takes the bus, runs it through four stages in series for each side, each output its slot's content minus its input,
and writes all eight slots (R195, R197). -/
def Obligations.ReverbRunsBothChains : Prop :=
  ∀ s k rd, s.status.active = false → (s.track k).ReverbLegal →
    ∃ u, ∃ x : Fin Config.NSTAGE → F32, exec (.revProc rd (trackField k)) s = .next u ∧
      x 0 = (s.track k).rbus ∧ x 4 = (s.track k).rbus ∧
      (∀ v, v ≠ 3 → v ≠ 7 → x (v + 1) = fsub (s.memRead .ap (stageAddr k v (s.track k).apidx[v.val].toNat)) (x v)) ∧
      u.getX rd = fsub (s.memRead .ap (stageAddr k 3 (s.track k).apidx[3].toNat)) (x 3) ∧
      u.getX (rd + 1) = fsub (s.memRead .ap (stageAddr k 7 (s.track k).apidx[7].toNat)) (x 7) ∧
      (∀ v, u.memRead .ap (stageAddr k v (s.track k).apidx[v.val].toNat) =
        fadd (x v) (fmul (s.memRead .ap (stageAddr k v (s.track k).apidx[v.val].toNat)) fHalf)) ∧
      (∀ v, (u.track k).apidx[v.val].toNat = ((s.track k).apidx[v.val].toNat + 1) % Config.REVLEN v) ∧
      u.track k = { s.track k with rbus := 0, apidx := (u.track k).apidx } ∧ u.err = s.err ∧
      Keeps s u [rd, rd + 1] [k]
        ((List.finRange Config.NSTAGE).map fun v => wordArea .ap (stageAddr k v (s.track k).apidx[v.val].toNat))

/-! ## Sequencer and voice -/

/-- SEQ.TICK counts down; at a boundary it first plays the slot at STEP as VOX.TRIG or VOX.OFF would, moves STEP on and, where SPS is
above 0, sets SCNT to SPS - 1 (R206). SPS is 10 at least in every state a run reaches (R33); SCNT after a boundary with SPS = 0 is
the model's (assumption 12) and is not stated. -/
def Obligations.SeqTickPlaysSlots : Prop :=
  ∀ s k, s.status.active = false →
    (0 < (s.track k).scnt.toNat →
      ∃ u, exec (.seqTick (trackField k)) s = .next u ∧ u.track k = { s.track k with scnt := (s.track k).scnt - 1 } ∧
        u.err = s.err ∧ Keeps s u [] [k] []) ∧
    ((s.track k).scnt = 0 →
      ∃ u w, exec (.seqTick (trackField k)) s = .next u ∧
        (s.memRead .pp (k.val * 16 + (s.track k).step.toNat) = 1 → exec (.voxOff (trackField k)) s = .next w) ∧
        (s.memRead .pp (k.val * 16 + (s.track k).step.toNat) = 0 →
          exec (.voxTrig (trackField k) ((s.memRead .pn (k.val * 16 + (s.track k).step.toNat)).setWidth 8)
            (s.memRead .pa (k.val * 16 + (s.track k).step.toNat) == 1)
            (s.memRead .ps (k.val * 16 + (s.track k).step.toNat) == 1)) s = .next w) ∧
        u.track k = { w.track k with step := (s.track k).step + 1, scnt := (u.track k).scnt } ∧
        (0 < (s.track k).sps.toNat → (u.track k).scnt.toNat = (s.track k).sps.toNat - 1) ∧ u.err = w.err ∧
        Keeps s u [] [k] [])

/-- With SPS constant, from STEP = SCNT = 0 the boundaries fall on tick numbers 0, SPS, 2·SPS, ..., and boundary m reads slot
m mod 16 (R211). -/
def Obligations.BoundariesEverySpsTicks : Prop :=
  ∀ s k n, s.status.active = false → (s.track k).scnt = 0 → (s.track k).step = 0 → 0 < (s.track k).sps.toNat →
    ∃ u, runCommands (List.replicate n (.seqTick (trackField k))) s = .next u ∧ (u.track k).sps = (s.track k).sps ∧
      ((u.track k).scnt = 0 ↔ (s.track k).sps.toNat ∣ n) ∧
      ((s.track k).sps.toNat ∣ n → (u.track k).step.toNat = n / (s.track k).sps.toNat % 16)

/-- SEQ.RNDS draws sixteen notes, slot 0 to 15, with their pitches in 0..127, SEQ.RNDR 48 flags, pause, accent and slide of each slot
in turn, and not the notes; nothing else is drawn, and every outcome can come about; both modes (R207, R208, I5, I6). That a draw takes
the next entry of `inputs.answers`, and which bits of it count, is the model's (assumption 2). -/
def Obligations.RandomPatternsAreLegalAndFree : Prop :=
  (∀ s k,
    (∃ u, exec (.seqRnds (trackField k)) s = .next u ∧
      (∀ j, j < 16 → ((s.track k).root.toNat : Int) + (u.memRead .pn (k.val * 16 + j)).toInt = (s.afterDraws j).nextAnswer.toNat ∧
        0 ≤ ((s.track k).root.toNat : Int) + (u.memRead .pn (k.val * 16 + j)).toInt ∧
        ((s.track k).root.toNat : Int) + (u.memRead .pn (k.val * 16 + j)).toInt ≤ 127) ∧
      u.inputs = (s.afterDraws 16).inputs ∧ u.inputs.turns = s.inputs.turns ∧ u.err = s.err ∧
      Keeps { s with inputs := u.inputs } u [] [] [(Space.pn.cell (k.val * 16), 16)]) ∧
    ∀ (pitch : Fin 16 → BitVec 7) (rest : List (BitVec 7)), ∃ u,
      exec (.seqRnds (trackField k)) { s with inputs := { s.inputs with answers := List.ofFn pitch ++ rest } } = .next u ∧
      (∀ j : Fin 16, ((s.track k).root.toNat : Int) + (u.memRead .pn (k.val * 16 + j.val)).toInt = (pitch j).toNat) ∧
      u.inputs = { s.inputs with answers := rest }) ∧
  ∀ s k,
    (∃ u, exec (.seqRndr (trackField k)) s = .next u ∧
      (∀ j, j < 16 → u.memRead .pp (k.val * 16 + j) = (if (s.afterDraws (3 * j)).nextBit then 1 else 0) ∧
        u.memRead .pa (k.val * 16 + j) = (if (s.afterDraws (3 * j + 1)).nextBit then 1 else 0) ∧
        u.memRead .ps (k.val * 16 + j) = (if (s.afterDraws (3 * j + 2)).nextBit then 1 else 0)) ∧
      u.inputs = (s.afterDraws 48).inputs ∧ u.inputs.turns = s.inputs.turns ∧ u.err = s.err ∧
      Keeps { s with inputs := u.inputs } u [] []
        [(Space.pp.cell (k.val * 16), 16), (Space.pa.cell (k.val * 16), 16), (Space.ps.cell (k.val * 16), 16)]) ∧
    ∀ (pause accent slide : Fin 16 → Bool) (rest : List (BitVec 7)), ∃ u,
      exec (.seqRndr (trackField k)) { s with inputs := { s.inputs with
        answers := (List.finRange 16).flatMap (fun j => [bitAnswer (pause j), bitAnswer (accent j), bitAnswer (slide j)]) ++ rest } } =
          .next u ∧
      (∀ j : Fin 16, u.memRead .pp (k.val * 16 + j.val) = (if pause j then 1 else 0) ∧
        u.memRead .pa (k.val * 16 + j.val) = (if accent j then 1 else 0) ∧
        u.memRead .ps (k.val * 16 + j.val) = (if slide j then 1 else 0)) ∧
      u.inputs = { s.inputs with answers := rest }

/-- VOX.TRIG: a slide onto a sounding voice sets up the ramp and leaves the oscillator; any other trigger takes the pitch at once,
sets the oscillator and restarts a sampler (R209). -/
def Obligations.TriggerSlidesOrRestarts : Prop :=
  ∀ s k (note : BitVec 8) accent slide, s.status.active = false →
    ∃ u fnew amp, exec (.voxTrig (trackField k) note accent slide) s = .next u ∧
      fnew = s.memRead .ft (max 0 (min 127 (((s.track k).root.toNat : Int) + note.toInt))).toNat ∧
      amp = fmul (s.track k).seqvol (if accent then fOne else fHalf) ∧ Keeps s u [] [k] [] ∧
      (slide = true → (s.track k).gate = true → u.err = s.err ∧
        u.track k = { s.track k with
          amp := amp, ftgt := fnew, gcnt := (s.track k).glide
          ginc := fdiv (fsub fnew (s.track k).fcur) (i2f (s.track k).glide.toNat) }) ∧
      (slide = false ∨ (s.track k).gate = false →
        u.err = errClamped s (clampf fnew 0 f22050 != fnew) ∧
        u.track k = { s.track k with
          amp := amp, fcur := fnew, ftgt := fnew, gcnt := 0, ginc := 0
          ofreq := clampf fnew 0 f22050
          oinc := fdiv (clampf fnew 0 f22050) f44100
          owti := seekTable s (clampf fnew 0 f22050) (s.track k).owti
          spos := if (s.track k).kind = .sampler then 0 else (s.track k).spos
          gate := true })

/-- VOX.TICK: a slide's tick sets the oscillator anew, the source KIND selects is ticked, its sample filtered, gated and scaled, and the
sends taken beside the dry pair (R213, R214). -/
def Obligations.VoiceTickMakesFourResults : Prop :=
  ∀ s k rd, s.status.active = false → (s.track k).OscLegal → (s.track k).SamplerLegal →
    ∃ u s1 s2 y v, exec (.voxTick rd (trackField k)) s = .next u ∧
      ((s.track k).gcnt = 0 → s1 = s) ∧
      ((s.track k).gcnt ≠ 0 → s1 = oscSetf k (if (s.track k).gcnt = 1 then (s.track k).ftgt else fadd (s.track k).fcur (s.track k).ginc)
        (s.setTrack k { s.track k with
          gcnt := (s.track k).gcnt - 1
          fcur := if (s.track k).gcnt = 1 then (s.track k).ftgt else fadd (s.track k).fcur (s.track k).ginc })) ∧
      ((s.track k).kind = .wavetable → exec (.oscTick rd (trackField k)) s1 = .next s2) ∧
      ((s.track k).kind = .sampler → exec (.smpTick rd (trackField k)) s1 = .next s2) ∧
      y = fmul (s.track k).hpf[2].coef (fadd (s.track k).hpf[2].y1 (fsub (s2.getX rd) (s.track k).hpf[2].x1)) ∧
      v = (if (s.track k).gate then fmul y (s.track k).amp else 0) ∧
      u.getX rd = v ∧ u.getX (rd + 1) = v ∧ u.getX (rd + 2) = fmul v (s.track k).dsend ∧ u.getX (rd + 3) = fmul v (s.track k).rsend ∧
      (u.track k).hpf[2] = { (s.track k).hpf[2] with x1 := s2.getX rd, y1 := y } ∧
      (u.track k).hpf[0] = (s.track k).hpf[0] ∧ (u.track k).hpf[1] = (s.track k).hpf[1] ∧
      u.track k = { s2.track k with hpf := (u.track k).hpf } ∧ u.err = s1.err ∧ Keeps s u [rd, rd + 1, rd + 2, rd + 3] [k] []

/-- A slide of n ticks ends after n VOX.TICK with FCUR exactly at its target and the oscillator set to it (R213). -/
def Obligations.GlideReachesTarget : Prop :=
  ∀ s k rd, s.status.active = false → (s.track k).OscLegal → (s.track k).SamplerLegal → (s.track k).gcnt ≠ 0 →
    ∃ u, runCommands (List.replicate (s.track k).gcnt.toNat (.voxTick rd (trackField k))) s = .next u ∧
      (u.track k).gcnt = 0 ∧ (u.track k).fcur = (s.track k).ftgt ∧ (u.track k).ofreq = clampf (s.track k).ftgt 0 f22050

/-! ## Mixer -/

/-- MIX.PAN: each gain is min(1, 1 ∓ PAN), then VOL; both inputs are read first (R97, R226). -/
def Obligations.PanLaw : Prop :=
  ∀ s k rd rs, ∃ u gL gR, exec (.mixPan rd (trackField k) rs) s = .next u ∧
    gL = (if flt fOne (fsub fOne (s.track k).pan) then fOne else fsub fOne (s.track k).pan) ∧
    gR = (if flt fOne (fadd fOne (s.track k).pan) then fOne else fadd fOne (s.track k).pan) ∧
    u.getX rd = fmul (fmul (s.getX rs) gL) (s.track k).vol ∧
    u.getX (rd + 1) = fmul (fmul (s.getX (rs + 1)) gR) (s.track k).vol ∧ OnlyX s u [rd, rd + 1]

/-- MIX.TRK does what VOX.TICK, DLY.IN, DLY.OUT, REV.IN and REV.PROC do in that order, and adds the panned sum to the master, with no
X register touched (R227). -/
def Obligations.MixTrkIsTheChain : Prop :=
  ∀ s k, s.status.active = false → s.UnitsLegal →
    ∃ u w, exec (.mixTrk (trackField k)) s = .next u ∧
      runCommands [.voxTick 0 (trackField k), .dlyIn (trackField k) 2, .dlyOut 4 (trackField k), .revIn (trackField k) 3,
        .revProc 6 (trackField k)] s = .next w ∧
      u.maccl = fadd s.maccl
        (mixPan (s.track k) (fadd (fadd (w.getX 0) (w.getX 4)) (w.getX 6)) (fadd (fadd (w.getX 1) (w.getX 5)) (w.getX 7))).1 ∧
      u.maccr = fadd s.maccr
        (mixPan (s.track k) (fadd (fadd (w.getX 0) (w.getX 4)) (w.getX 6)) (fadd (fadd (w.getX 1) (w.getX 5)) (w.getX 7))).2 ∧
      u = { w with x := s.x, maccl := u.maccl, maccr := u.maccr }

/-- MIX.EMIT inside a buffer: the frame word, left low and right high, the accumulator cleared, the next frame; slot and all else stay
(R71, R229). -/
def Obligations.EmitStoresFrame : Prop :=
  ∀ s, s.status.active = false → s.rpos.pframe.val < 1023 →
    ∃ u, exec .mixEmit s = .next u ∧
      u.memRead .pb (s.rpos.pbuf.val * 1024 + s.rpos.pframe.val) = (pcm16 s.maccr ++ pcm16 s.maccl : BitVec 32) ∧
      u.maccl = 0 ∧ u.maccr = 0 ∧ u.rpos.pbuf = s.rpos.pbuf ∧ u.rpos.pframe.val = s.rpos.pframe.val + 1 ∧ u.rpos.slot = s.rpos.slot ∧
      (∀ a, (a < (wordArea .pb (s.rpos.pbuf.val * 1024 + s.rpos.pframe.val)).1 ∨
        (wordArea .pb (s.rpos.pbuf.val * 1024 + s.rpos.pframe.val)).1 + 4 ≤ a) → u.mem.byte a = s.mem.byte a) ∧
      { u with mem := s.mem, maccl := s.maccl, maccr := s.maccr, rpos := s.rpos } = s

/-- MIX.EMIT at the last frame hands the buffer off: viable sinks are offered it, a failing answer drops its sink and is logged, the
event carries the buffer's bytes, the counters advance, the next buffer begins (R71, R229, R239). -/
def Obligations.LastEmitHandsOff : Prop :=
  ∀ s, s.status.active = false → s.rpos.pframe.val = 1023 →
    ∃ u s1 a c bytes, exec .mixEmit s = .next u ∧
      a = s.nextBit ∧ s1 = (if s.status.devok then s.afterDraw else s) ∧ c = s1.nextBit ∧
      u.events = s.events ++ [.emit s.rpos.pbuf bytes s.status.devok s.status.capok] ∧ bytes.length = 4096 ∧
      (∀ f j, f < 1024 → j < 4 →
        bytes[4 * f + j]? = some ((u.memRead .pb (s.rpos.pbuf.val * 1024 + f)).extractLsb' (8 * j) 8)) ∧
      u.memRead .pb (s.rpos.pbuf.val * 1024 + 1023) = (pcm16 s.maccr ++ pcm16 s.maccl : BitVec 32) ∧
      u.status = { s.status with devok := s.status.devok && a, capok := s.status.capok && c } ∧
      u.err = s.err ||| (if s.status.devok && !a then 0x080 else 0) ||| (if s.status.capok && !c then 0x100 else 0) ∧
      u.inputs = (if s.status.capok then s1.afterDraw else s1).inputs ∧
      u.bufcnt = s.bufcnt + 1 ∧ u.bytecnt = s.bytecnt + 4096 ∧ u.maccl = 0 ∧ u.maccr = 0 ∧
      u.rpos = ⟨s.rpos.pbuf + 1, 0, s.rpos.slot⟩ ∧
      (∀ b, (b < (wordArea .pb (s.rpos.pbuf.val * 1024 + 1023)).1 ∨
        (wordArea .pb (s.rpos.pbuf.val * 1024 + 1023)).1 + 4 ≤ b) → u.mem.byte b = s.mem.byte b) ∧
      u.x = s.x ∧ u.tracks = s.tracks ∧ u.errinfo = s.errinfo

/-! ## Engine -/

/-- A successful ENG.START puts every running quantity back, silences the delay rings and all-pass buffers, keeps every configuration
and all other memory, and begins a run with both sinks (R230, R294). -/
def Obligations.StartInitialisesAndRuns : Prop :=
  ∀ s, s.status.active = false → s.status.fatal = false → s.nextBit = true → s.afterDraw.nextBit = true →
    ∃ u, exec .engStart s = .next u ∧ u.status = ⟨true, false, true, false, true, true⟩ ∧
      (∀ k, u.track k = { s.track k with
        step := 0, scnt := 0, gate := false, amp := 0, fcur := 0, ftgt := 0, ginc := 0, gcnt := 0, ofreq := 0, oinc := 0, ophase := 0
        owti := 0, spos := 0, dwp := 0, drp := BitVec.ofNat 32 (((44100 - (s.track k).dlag.toNat : Int) % 44100).toNat * 65536)
        drate := 0x00010000, dcnt := 0
        hpf := #v[{ (s.track k).hpf[0] with x1 := 0, y1 := 0 }, { (s.track k).hpf[1] with x1 := 0, y1 := 0 },
          { (s.track k).hpf[2] with x1 := 0, y1 := 0 }]
        rbus := 0, apidx := Vector.replicate Config.NSTAGE 0 }) ∧
      (∀ sp a, sp = .dl ∨ sp = .dr ∨ sp = .ap → ElementOf sp a → u.memRead sp a = 0) ∧
      (∀ b, (∀ sp a j, sp = .dl ∨ sp = .dr ∨ sp = .ap → ElementOf sp a → j < 4 → b ≠ sp.cell a + j) → u.mem.byte b = s.mem.byte b) ∧
      u.rpos = ⟨0, 0, 0⟩ ∧ u.bufcnt = 0 ∧ u.bytecnt = 0 ∧ u.maccl = 0 ∧ u.maccr = 0 ∧
      u.x = s.x ∧ u.err = s.err ∧ u.errinfo = s.errinfo ∧ u.events = s.events ∧ u.inputs = s.afterDraw.afterDraw.inputs

/-- An ENG.START one of whose answers fails sets FATAL and the fatal report of each failed answer and initialises nothing (R230,
R266). -/
def Obligations.FailedStartIsFatal : Prop :=
  ∀ s, s.status.active = false → s.status.fatal = false → s.nextBit = false ∨ s.afterDraw.nextBit = false →
    ∃ u, exec .engStart s = .next u ∧ u.status = { s.status with fatal := true } ∧
      u.err = s.err ||| (if s.nextBit then 0 else 0x200) ||| (if s.afterDraw.nextBit then 0 else 0x400) ∧
      u.inputs = s.afterDraw.afterDraw.inputs ∧ { u with status := s.status, err := s.err, inputs := s.inputs } = s

/-- While RUNNING, ENG.STOP clears RUNNING, ENG.PAUSE sets PAUSED and ENG.RESUME clears it; in DIRECT mode VOX.OFF clears the gate; each
changes nothing else (R210, R231, R232, R233). -/
def Obligations.FlagCommandsChangeOneFlag : Prop :=
  (∀ s, s.status.running = true →
    exec .engStop s = .next { s with status := { s.status with running := false } } ∧
    exec .engPause s = .next { s with status := { s.status with paused := true } } ∧
    exec .engResume s = .next { s with status := { s.status with paused := false } }) ∧
  ∀ s k, s.status.active = false →
    ∃ u, exec (.voxOff (trackField k)) s = .next u ∧ u.track k = { s.track k with gate := false } ∧ u.err = s.err ∧ Keeps s u [] [k] []

/-! ## Invariants -/

/-- Every step keeps the engine in one of the five states, and moves between them only as R234 lists; FATAL goes only by reset (R234,
R266). -/
def Obligations.EngineStatesAndTransitions : Prop :=
  ∀ s u, s.status.Legal → step s = .next u →
    u.status.Legal ∧
    (s.status.fatal = true → u.status.fatal = true ∨ s.inputs.turns.head? = some .reset) ∧
    (s.status.fatal = false → u.status.fatal = true → s.inputs.turns.head? = some (.command 0x08000000) ∧
      s.status.active = false ∧ u.status.active = false) ∧
    (s.status.paused = false → u.status.paused = true → s.inputs.turns.head? = some (.command 0x0A000000) ∧
      s.status.running = true) ∧
    (s.status.paused = true → u.status.paused = false → s.inputs.turns.head? = some .reset ∨
      s.inputs.turns.head? = some (.command 0x0B000000) ∨ u.status.active = false) ∧
    (s.status.active = false → u.status.active = true → s.inputs.turns.head? = some (.command 0x08000000) ∧ s.status.fatal = false ∧
      u.status.running = true ∧ u.status.paused = false) ∧
    (s.status.active = true → u.status.active = false → s.inputs.turns.head? = some .reset ∨
      (s.status.running = false ∧ s.rpos.pframe = 0 ∧ s.rpos.slot = 0)) ∧
    (s.status.active = true → s.status.running = false → u.status.running = false) ∧
    (s.status.running = true → u.status.running = false → s.inputs.turns.head? = some .reset ∨
      s.inputs.turns.head? = some (.command 0x09000000))

/-- The oscillator invariant holds after reset and every step keeps it; under it the phase before the wrap is at most 1.5 and the wrap
exact, the table position, its floor and its fraction are in range and the four addresses inside the selected table (R148). -/
def Obligations.OscillatorInvariant : Prop :=
  (∀ k, (State.reset.track k).OscLegal) ∧
  (∀ s u, (∀ k, (s.track k).OscLegal) → step s = .next u → ∀ k, (u.track k).OscLegal) ∧
  ∀ tr : Track, tr.OscLegal →
    fle (fadd tr.ophase tr.oinc) fOneHalf = true ∧
    (fle fOne (fadd tr.ophase tr.oinc) = true → valueOf (nextPhase tr.ophase tr.oinc) = valueOf (fadd tr.ophase tr.oinc) - 1) ∧
    0 ≤ valueOf (fmul (nextPhase tr.ophase tr.oinc) f2048) ∧ valueOf (fmul (nextPhase tr.ophase tr.oinc) f2048) < 2048 ∧
    ∃ i, tableIndex (fmul (nextPhase tr.ophase tr.oinc) f2048) = some i ∧ i < 2048 ∧
      0 ≤ valueOf (fsub (fmul (nextPhase tr.ophase tr.oinc) f2048) (i2f i)) ∧
      valueOf (fsub (fmul (nextPhase tr.ophase tr.oinc) f2048) (i2f i)) < 1 ∧
      ∀ j, j < 4 → ElementOf .wt (wtAddr tr.owti (i + j)) ∧ wtAddr tr.owti (i + j) / 4096 = tr.owti.toNat

/-- The lag invariant of every delay holds after reset and every step keeps it; under it every read is inside the ring (R176). -/
def Obligations.DelayInvariant : Prop :=
  (∀ k, (State.reset.track k).DelayLegal) ∧
  (∀ k (tr : Track), tr.DelayLegal → ElementOf .dl (ringAddr k (advanceRead tr / 65536)) ∧
    ElementOf .dl (ringAddr k ((advanceRead tr / 65536 + 1) % Config.CAP)) ∧ ElementOf .dl (ringAddr k (advanceWrite tr).val)) ∧
  ∀ s u, (∀ k, (s.track k).DelayLegal) → step s = .next u → ∀ k, (u.track k).DelayLegal

/-- Every step keeps the legal values of the configuration, the sampler's and the all-pass stages' bounds and the high-pass
coefficients (R28, R37, R160, R166). -/
def Obligations.RangesInvariant : Prop :=
  ∀ s u, (∀ k, (s.track k).ConfigLegal ∧ (s.track k).SamplerLegal ∧ (s.track k).ReverbLegal ∧ (s.track k).FilterLegal) →
    step s = .next u →
    ∀ k, (u.track k).ConfigLegal ∧ (u.track k).SamplerLegal ∧ (u.track k).ReverbLegal ∧ (u.track k).FilterLegal

/-- Every step keeps memory in its canonical form and writes only bytes of elements that exist, flags as 0 or 1. That no element but
those of R60 is written is the spec's (R60, R63); the canonical list of bytes, and that a flag is a byte of 0 or 1, are the model's
own layout of memory (assumption 3). -/
def Obligations.MemoryInvariant : Prop :=
  ∀ s u, s.mem.wf → s.ElementsOnly → step s = .next u → u.mem.wf ∧ u.ElementsOnly

/-- The reset state satisfies every invariant (R28, R148, R176, R234). -/
def Obligations.ResetSatisfiesInvariants : Prop :=
  State.reset.status.Legal ∧ State.reset.mem.wf ∧ State.reset.ElementsOnly ∧
  ∀ k, (State.reset.track k).ConfigLegal ∧ (State.reset.track k).OscLegal ∧ (State.reset.track k).SamplerLegal ∧
    (State.reset.track k).DelayLegal ∧ (State.reset.track k).ReverbLegal ∧ (State.reset.track k).FilterLegal

/-- Under the unit invariants every step answers a next state, and so does every run from reset, whatever the inputs: nothing stops
this hardware (R260, R307). -/
def Obligations.NothingStops : Prop :=
  (∀ s : State, s.UnitsLegal → ∃ u, step s = .next u) ∧
  ∀ (inputs : Inputs) n, ∃ u, Host.Core.run Sys2Proof.core n { State.reset with inputs := inputs } = .next u
end

