-- ==== Sys2Proof/Laws/Decode.lean ====
section
/-! SUPPORT. Cutting a command word into its fields and laying fields out in a word undo each other. -/

namespace Sys2Proof.Laws

open Sys2Proof Sys2Proof.Machine

/-- Bit i of a laid-out word. -/
theorem layout_bit (op : BitVec 8) (t u rd rs rt fn : BitVec 4) (i : Nat) :
    (op ++ t ++ u ++ rd ++ rs ++ rt ++ fn : BitVec (8 + 4 + 4 + 4 + 4 + 4 + 4)).getLsbD i =
      if i < 4 then fn.getLsbD i else if i < 8 then rt.getLsbD (i - 4) else if i < 12 then rs.getLsbD (i - 8)
      else if i < 16 then rd.getLsbD (i - 12) else if i < 20 then u.getLsbD (i - 16) else if i < 24 then t.getLsbD (i - 20)
      else op.getLsbD (i - 24) := by
  simp only [BitVec.getLsbD_append]
  rcases Nat.lt_or_ge i 4 with h | h
  · simp [h]
  rw [if_neg (by omega : ¬i < 4), if_neg (by omega : ¬i < 4)]
  rcases Nat.lt_or_ge i 8 with h1 | h1
  · rw [if_pos (by omega), if_pos h1]
  rw [if_neg (by omega : ¬i - 4 < 4), if_neg (by omega : ¬i < 8)]
  rcases Nat.lt_or_ge i 12 with h2 | h2
  · rw [if_pos (by omega), if_pos h2, show i - 4 - 4 = i - 8 by omega]
  rw [if_neg (by omega : ¬i - 4 - 4 < 4), if_neg (by omega : ¬i < 12)]
  rcases Nat.lt_or_ge i 16 with h3 | h3
  · rw [if_pos (by omega), if_pos h3, show i - 4 - 4 - 4 = i - 12 by omega]
  rw [if_neg (by omega : ¬i - 4 - 4 - 4 < 4), if_neg (by omega : ¬i < 16)]
  rcases Nat.lt_or_ge i 20 with h4 | h4
  · rw [if_pos (by omega), if_pos h4, show i - 4 - 4 - 4 - 4 = i - 16 by omega]
  rw [if_neg (by omega : ¬i - 4 - 4 - 4 - 4 < 4), if_neg (by omega : ¬i < 20)]
  rcases Nat.lt_or_ge i 24 with h5 | h5
  · rw [if_pos (by omega), if_pos h5, show i - 4 - 4 - 4 - 4 - 4 = i - 20 by omega]
  rw [if_neg (by omega : ¬i - 4 - 4 - 4 - 4 - 4 < 4), if_neg (by omega : ¬i < 24), show i - 4 - 4 - 4 - 4 - 4 - 4 = i - 24 by omega]

/-- Bit i of a command word is a bit of one of its fields (R91). -/
theorem wordOf_bit (f : Fields) (i : Nat) :
    (wordOf f).getLsbD i =
      if i < 4 then f.fn.getLsbD i else if i < 8 then f.rt.getLsbD (i - 4) else if i < 12 then f.rs.getLsbD (i - 8)
      else if i < 16 then f.rd.getLsbD (i - 12) else if i < 20 then f.u.getLsbD (i - 16) else if i < 24 then f.t.getLsbD (i - 20)
      else f.op.getLsbD (i - 24) := layout_bit f.op f.t f.u f.rd f.rs f.rt f.fn i

/-- Cutting a laid-out word gives the fields back. -/
@[simp] theorem fieldsOf_wordOf (f : Fields) : fieldsOf (wordOf f) = f := by
  obtain ⟨op, t, u, rd, rs, rt, fn⟩ := f
  unfold fieldsOf
  congr 1 <;>
    (apply BitVec.eq_of_getLsbD_eq
     intro i hi
     rw [BitVec.getLsbD_extractLsb', wordOf_bit]
     simp only [hi, decide_true, Bool.true_and])
  · rw [if_neg (by omega), if_neg (by omega), if_neg (by omega), if_neg (by omega), if_neg (by omega), if_neg (by omega)]
    congr 1; omega
  · rw [if_neg (by omega), if_neg (by omega), if_neg (by omega), if_neg (by omega), if_neg (by omega), if_pos (by omega)]
    congr 1; omega
  · rw [if_neg (by omega), if_neg (by omega), if_neg (by omega), if_neg (by omega), if_pos (by omega)]
    congr 1; omega
  · rw [if_neg (by omega), if_neg (by omega), if_neg (by omega), if_pos (by omega)]
    congr 1; omega
  · rw [if_neg (by omega), if_neg (by omega), if_pos (by omega)]
    congr 1; omega
  · rw [if_neg (by omega), if_pos (by omega)]
    congr 1; omega
  · rw [if_pos (by omega)]
    congr 1; omega

/-- Laying out the fields of a word gives the word back. -/
@[simp] theorem wordOf_fieldsOf (w : Word) : wordOf (fieldsOf w) = w := by
  apply BitVec.eq_of_getLsbD_eq
  intro i hi
  rw [wordOf_bit]
  simp only [fieldsOf, BitVec.getLsbD_extractLsb']
  rcases Nat.lt_or_ge i 4 with h | h
  · rw [if_pos h]; simp [h]
  rw [if_neg (by omega)]
  rcases Nat.lt_or_ge i 8 with h1 | h1
  · rw [if_pos h1]; simp [show i - 4 < 4 by omega, show 4 + (i - 4) = i by omega]
  rw [if_neg (by omega)]
  rcases Nat.lt_or_ge i 12 with h2 | h2
  · rw [if_pos h2]; simp [show i - 8 < 4 by omega, show 8 + (i - 8) = i by omega]
  rw [if_neg (by omega)]
  rcases Nat.lt_or_ge i 16 with h3 | h3
  · rw [if_pos h3]; simp [show i - 12 < 4 by omega, show 12 + (i - 12) = i by omega]
  rw [if_neg (by omega)]
  rcases Nat.lt_or_ge i 20 with h4 | h4
  · rw [if_pos h4]; simp [show i - 16 < 4 by omega, show 16 + (i - 16) = i by omega]
  rw [if_neg (by omega)]
  rcases Nat.lt_or_ge i 24 with h5 | h5
  · rw [if_pos h5]; simp [show i - 20 < 4 by omega, show 20 + (i - 20) = i by omega]
  rw [if_neg (by omega)]
  simp [show i - 24 < 8 by omega, show 24 + (i - 24) = i by omega]

/-- The layout loses nothing. -/
theorem wordOf_inj {f g : Fields} (h : wordOf f = wordOf g) : f = g := by
  rw [← fieldsOf_wordOf f, h, fieldsOf_wordOf]

/-- Two words that have the same fields are the same word. -/
theorem fieldsOf_inj {v w : Word} (h : fieldsOf v = fieldsOf w) : v = w := by
  rw [← wordOf_fieldsOf v, h, wordOf_fieldsOf]

/-- A mask works on each field by itself. -/
theorem fieldsOf_and (v w : Word) : fieldsOf (v &&& w) =
    ⟨(fieldsOf v).op &&& (fieldsOf w).op, (fieldsOf v).t &&& (fieldsOf w).t, (fieldsOf v).u &&& (fieldsOf w).u,
     (fieldsOf v).rd &&& (fieldsOf w).rd, (fieldsOf v).rs &&& (fieldsOf w).rs, (fieldsOf v).rt &&& (fieldsOf w).rt,
     (fieldsOf v).fn &&& (fieldsOf w).fn⟩ := by
  unfold fieldsOf
  simp only [BitVec.extractLsb'_and]

/-- The decoder on a laid-out word looks at the fields. -/
@[simp] theorem decode_wordOf (f : Fields) : decode (wordOf f) = decodeFields f := by
  unfold decode; rw [fieldsOf_wordOf]

/-- The decoder on an encoded command looks at the command's fields. -/
@[simp] theorem decode_encode_fields (i : Instr) : decode (encode i) = decodeFields (encodeFields i) := decode_wordOf _

end Sys2Proof.Laws
end

