-- ==== Sys2Proof/Laws/Memory.lean ====
section
/-! SUPPORT. Memory: what a byte reads as after each operation, the canonical form kept by each, the four bytes of a word, and
that different elements have different bytes. -/

namespace Sys2Proof.Laws

open Sys2Proof Sys2Proof.Machine

/-! ## Bytes -/

theorem byte_erase (m : Memory) (a b : Nat) : (m.erase a).byte b = if b = a then unlisted b else m.byte b := by
  induction m with
  | nil => simp [Memory.erase, Memory.byte]
  | cons c m ih =>
    unfold Memory.erase at ih ⊢
    by_cases hc : c.1 = a
    · rw [List.filter_cons_of_neg (by simp [hc]), ih]
      by_cases hb : b = a
      · rw [if_pos hb, if_pos hb]
      · rw [if_neg hb, if_neg hb, Memory.byte, if_neg (by omega)]
    · rw [List.filter_cons_of_pos (by simp [hc]), Memory.byte, ih]
      by_cases hb : b = c.1
      · rw [if_pos hb, if_neg (by omega), Memory.byte, if_pos hb]
      · rw [if_neg hb, Memory.byte, if_neg hb]

theorem byte_insert (m : Memory) (c : Host.Cell) (b : Nat) (absent : ∀ d ∈ m, d.1 ≠ c.1) :
    (m.insert c).byte b = if b = c.1 then c.2 else m.byte b := by
  induction m with
  | nil => simp [Memory.insert, Memory.byte]
  | cons d m ih =>
    unfold Memory.insert
    split
    · rw [Memory.byte]
    · rw [Memory.byte, ih (fun e he => absent e (List.mem_cons_of_mem _ he)), Memory.byte]
      have := absent d List.mem_cons_self
      by_cases hb : b = d.1
      · rw [if_pos hb, if_pos hb, if_neg (by omega)]
      · rw [if_neg hb, if_neg hb]

theorem absent_erase (m : Memory) (a : Nat) : ∀ d ∈ m.erase a, d.1 ≠ a := by
  intro d hd
  simpa using (List.mem_filter.mp hd).2

/-- A byte after a byte was written. -/
theorem byte_setByte (m : Memory) (a b : Nat) (v : Byte) : (m.setByte a v).byte b = if b = a then v else m.byte b := by
  unfold Memory.setByte
  split
  · rw [byte_erase]
    split
    · subst b; exact Eq.symm ‹_›
    · rfl
  · rw [byte_insert _ _ _ (absent_erase m a), byte_erase]
    split
    · rfl
    · rfl

@[simp] theorem byte_setByte_same (m : Memory) (a : Nat) (v : Byte) : (m.setByte a v).byte a = v := by
  rw [byte_setByte, if_pos rfl]

theorem byte_setByte_ne (m : Memory) {a b : Nat} (v : Byte) (h : b ≠ a) : (m.setByte a v).byte b = m.byte b := by
  rw [byte_setByte, if_neg h]

/-- A byte after an area was put back to its reset contents. -/
theorem byte_restore (m : Memory) (lo n a : Nat) :
    (m.restore lo n).byte a = if lo ≤ a ∧ a < lo + n then unlisted a else m.byte a := by
  induction m with
  | nil => simp [Memory.restore, Memory.byte]
  | cons c m ih =>
    unfold Memory.restore at ih ⊢
    by_cases hc : c.1 < lo ∨ lo + n ≤ c.1
    · rw [List.filter_cons_of_pos (by simpa using hc), Memory.byte, ih]
      by_cases hb : a = c.1
      · rw [if_pos hb, if_neg (by omega), Memory.byte, if_pos hb]
      · rw [if_neg hb, Memory.byte, if_neg hb]
    · rw [List.filter_cons_of_neg (by simpa using hc), ih]
      by_cases hb : lo ≤ a ∧ a < lo + n
      · rw [if_pos hb, if_pos hb]
      · rw [if_neg hb, if_neg hb, Memory.byte, if_neg (by omega)]

/-! ## The canonical form -/

theorem mem_insert (m : Memory) (c d : Host.Cell) : d ∈ m.insert c ↔ d = c ∨ d ∈ m := by
  induction m with
  | nil => simp [Memory.insert]
  | cons e m ih =>
    unfold Memory.insert
    split
    · simp
    · rw [List.mem_cons, ih, List.mem_cons]; tauto

theorem filter_wf {m : Memory} (h : m.wf) (p : Host.Cell → Bool) : Memory.wf (m.filter p) :=
  ⟨h.1.filter p, fun c hc => h.2 c (List.mem_filter.mp hc).1⟩

theorem insert_wf {m : Memory} (h : m.wf) (c : Host.Cell) (hc : c.2 ≠ unlisted c.1) (absent : ∀ d ∈ m, d.1 ≠ c.1) :
    (m.insert c).wf := by
  refine ⟨?_, ?_⟩
  · have hp := h.1
    clear h
    induction m with
    | nil => simp [Memory.insert]
    | cons d m ih =>
      rw [List.pairwise_cons] at hp
      unfold Memory.insert
      split
      · rename_i hlt
        refine List.pairwise_cons.mpr ⟨?_, List.pairwise_cons.mpr hp⟩
        intro e he
        rcases List.mem_cons.mp he with rfl | he
        · exact hlt
        · exact hlt.trans (hp.1 e he)
      · rename_i hge
        have hd := absent d List.mem_cons_self
        refine List.pairwise_cons.mpr ⟨?_, ih (fun e he => absent e (List.mem_cons_of_mem _ he)) hp.2⟩
        intro e he
        rcases (mem_insert m c e).mp he with rfl | he
        · exact Nat.lt_of_le_of_ne (Nat.le_of_not_lt hge) hd
        · exact hp.1 e he
  · intro d hd
    rcases (mem_insert m c d).mp hd with rfl | hd
    · exact hc
    · exact h.2 d hd

/-- Writing a byte keeps the canonical form. -/
theorem setByte_wf {m : Memory} (h : m.wf) (a : Nat) (v : Byte) : (m.setByte a v).wf := by
  unfold Memory.setByte
  split
  · exact filter_wf h _
  · exact insert_wf (filter_wf h _) _ ‹_› (absent_erase m a)

/-- Writing a word keeps the canonical form. -/
theorem setWord_wf {m : Memory} (h : m.wf) (a : Nat) (v : Word) : (m.setWord a v).wf :=
  setByte_wf (setByte_wf (setByte_wf (setByte_wf h _ _) _ _) _ _) _ _

/-- Putting an area back to its reset contents keeps the canonical form. -/
theorem restore_wf {m : Memory} (h : m.wf) (lo n : Nat) : (m.restore lo n).wf := filter_wf h _

/-! ## Words -/

/-- A byte after a word was written: byte b - a of the word inside it, the old byte outside. -/
theorem byte_setWord (m : Memory) (a b : Nat) (v : Word) :
    (m.setWord a v).byte b = if a ≤ b ∧ b < a + 4 then v.extractLsb' (8 * (b - a)) 8 else m.byte b := by
  unfold Memory.setWord
  rw [byte_setByte, byte_setByte, byte_setByte, byte_setByte]
  by_cases h0 : b = a
  · subst b; simp
  by_cases h1 : b = a + 1
  · subst b; simp
  by_cases h2 : b = a + 2
  · subst b; simp
  by_cases h3 : b = a + 3
  · subst b; simp
  rw [if_neg h3, if_neg h2, if_neg h1, if_neg h0, if_neg (by omega)]

theorem byte_setWord_ne (m : Memory) {a b : Nat} (v : Word) (h : b < a ∨ a + 4 ≤ b) : (m.setWord a v).byte b = m.byte b := by
  rw [byte_setWord, if_neg (by omega)]

/-- The four bytes of a word make the word. -/
theorem bytes_of_word (v : BitVec (8 + 8 + 8 + 8)) :
    v.extractLsb' 24 8 ++ v.extractLsb' 16 8 ++ v.extractLsb' 8 8 ++ v.extractLsb' 0 8 = v := by
  apply BitVec.eq_of_getLsbD_eq
  intro i hi
  simp only [BitVec.getLsbD_append, BitVec.getLsbD_extractLsb']
  rcases Nat.lt_or_ge i 8 with h | h
  · simp [h]
  rcases Nat.lt_or_ge i 16 with h' | h'
  · simp [show ¬ i < 8 by omega, show i - 8 < 8 by omega, show 8 + (i - 8) = i by omega]
  rcases Nat.lt_or_ge i 24 with h'' | h''
  · simp [show ¬ i < 8 by omega, show ¬ i - 8 < 8 by omega, show i - 8 - 8 < 8 by omega, show 16 + (i - 8 - 8) = i by omega]
  · simp [show ¬ i < 8 by omega, show ¬ i - 8 < 8 by omega, show ¬ i - 8 - 8 < 8 by omega, show i - 8 - 8 - 8 < 8 by omega,
      show 24 + (i - 8 - 8 - 8) = i by omega]

/-- A word is the one that was written. -/
@[simp] theorem word_setWord_same (m : Memory) (a : Nat) (v : Word) : (m.setWord a v).word a = v := by
  unfold Memory.word
  rw [byte_setWord, byte_setWord, byte_setWord, byte_setWord, if_pos (by omega), if_pos (by omega), if_pos (by omega),
    if_pos (by omega)]
  have e3 : 8 * (a + 3 - a) = 24 := by omega
  have e2 : 8 * (a + 2 - a) = 16 := by omega
  have e1 : 8 * (a + 1 - a) = 8 := by omega
  have e0 : 8 * (a - a) = 0 := by omega
  rw [e3, e2, e1, e0]
  exact bytes_of_word v

/-- A word elsewhere is not changed. -/
theorem word_setWord_ne (m : Memory) {a b : Nat} (v : Word) (h : b + 4 ≤ a ∨ a + 4 ≤ b) : (m.setWord a v).word b = m.word b := by
  unfold Memory.word
  rw [byte_setWord_ne _ _ (by omega), byte_setWord_ne _ _ (by omega), byte_setWord_ne _ _ (by omega), byte_setWord_ne _ _ (by omega)]

/-- A word is not changed by a byte written elsewhere. -/
theorem word_setByte_ne (m : Memory) {a b : Nat} (v : Byte) (h : a < b ∨ b + 4 ≤ a) : (m.setByte a v).word b = m.word b := by
  unfold Memory.word
  rw [byte_setByte_ne _ _ (by omega), byte_setByte_ne _ _ (by omega), byte_setByte_ne _ _ (by omega), byte_setByte_ne _ _ (by omega)]

/-- A word outside a restored area is not changed. -/
theorem word_restore_ne (m : Memory) {lo n b : Nat} (h : b + 4 ≤ lo ∨ lo + n ≤ b) : (m.restore lo n).word b = m.word b := by
  unfold Memory.word
  simp only [byte_restore]
  rw [if_neg (by omega), if_neg (by omega), if_neg (by omega), if_neg (by omega)]

/-! ## Elements -/

theorem width_pos (sp : Space) : 1 ≤ sp.width := by cases sp <;> decide

theorem width_le (sp : Space) : sp.width ≤ 4 := by cases sp <;> decide

theorem index_inj {sp sp' : Space} (h : sp.index = sp'.index) : sp = sp' := by
  cases sp <;> cases sp' <;> first | rfl | (exact absurd h (by decide))

/-- Different elements have different bytes: a byte of an element names its space, its address and its place in it (R60). -/
theorem cell_inj {sp sp' : Space} {a b j j' : Nat} (ha : a < 2 ^ 32) (hb : b < 2 ^ 32) (hj : j < sp.width) (hj' : j' < sp'.width)
    (h : sp.cell a + j = sp'.cell b + j') : sp = sp' ∧ a = b ∧ j = j' := by
  have w := width_le sp
  have w' := width_le sp'
  have p := width_pos sp
  have p' := width_pos sp'
  unfold Space.cell Space.base at h
  have bound : sp.width * a + j < 2 ^ 34 := by nlinarith
  have bound' : sp'.width * b + j' < 2 ^ 34 := by nlinarith
  have hi : sp.index = sp'.index := by omega
  have hs := index_inj hi
  subst hs
  refine ⟨rfl, ?_⟩
  have e : sp.width * a + j = sp.width * b + j' := by omega
  have ea : (sp.width * a + j) / sp.width = a := by
    rw [Nat.mul_add_div (by omega), Nat.div_eq_of_lt hj, Nat.add_zero]
  have eb : (sp.width * b + j') / sp.width = b := by
    rw [Nat.mul_add_div (by omega), Nat.div_eq_of_lt hj', Nat.add_zero]
  have : a = b := by rw [← ea, ← eb, e]
  subst this
  exact ⟨rfl, by omega⟩

/-- The bytes of the spaces other than FT and PP read as zero while they are not listed (R292). -/
theorem unlisted_cell {sp : Space} {a j : Nat} (ha : a < 2 ^ 32) (hj : j < sp.width) (hft : sp ≠ .ft) (hpp : sp ≠ .pp) :
    unlisted (sp.cell a + j) = 0 := by
  have w := width_le sp
  have bound : sp.width * a + j < 2 ^ 34 := by nlinarith
  have hq : (sp.cell a + j) / 2 ^ 34 = sp.index := by
    unfold Space.cell Space.base
    rw [Nat.add_assoc, Nat.mul_comm, Nat.mul_add_div (by decide), Nat.div_eq_of_lt bound, Nat.add_zero]
  unfold unlisted
  rw [hq]
  have h1 : sp.index ≠ 1 := fun e => hft (index_inj (sp' := .ft) e)
  have h4 : sp.index ≠ 4 := fun e => hpp (index_inj (sp' := .pp) e)
  rw [if_neg h1, if_neg (fun e => h4 e.1)]

end Sys2Proof.Laws
end

