-- ==== Sys2Proof/Laws/State.lean ====
section
/-! SUPPORT. One lemma for each field an update of the state leaves alone, and what reading a field the update writes gives. -/

namespace Sys2Proof.Laws

open Sys2Proof Sys2Proof.Machine

/-! ## Fields an update does not touch -/

/-! ### The memory replaced -/

theorem withMem_x (s : State) (m : Memory) : ({ s with mem := m } : State).x = s.x := rfl
theorem withMem_rpos (s : State) (m : Memory) : ({ s with mem := m } : State).rpos = s.rpos := rfl
theorem withMem_status (s : State) (m : Memory) : ({ s with mem := m } : State).status = s.status := rfl
theorem withMem_err (s : State) (m : Memory) : ({ s with mem := m } : State).err = s.err := rfl
theorem withMem_errinfo (s : State) (m : Memory) : ({ s with mem := m } : State).errinfo = s.errinfo := rfl
theorem withMem_bufcnt (s : State) (m : Memory) : ({ s with mem := m } : State).bufcnt = s.bufcnt := rfl
theorem withMem_bytecnt (s : State) (m : Memory) : ({ s with mem := m } : State).bytecnt = s.bytecnt := rfl
theorem withMem_maccl (s : State) (m : Memory) : ({ s with mem := m } : State).maccl = s.maccl := rfl
theorem withMem_maccr (s : State) (m : Memory) : ({ s with mem := m } : State).maccr = s.maccr := rfl
theorem withMem_tracks (s : State) (m : Memory) : ({ s with mem := m } : State).tracks = s.tracks := rfl
theorem withMem_events (s : State) (m : Memory) : ({ s with mem := m } : State).events = s.events := rfl
theorem withMem_inputs (s : State) (m : Memory) : ({ s with mem := m } : State).inputs = s.inputs := rfl
theorem withMem_getX (s : State) (m : Memory) (r : Reg) : ({ s with mem := m } : State).getX r = s.getX r := rfl
theorem withMem_track (s : State) (m : Memory) (j : Fin Config.NTRK) : ({ s with mem := m } : State).track j = s.track j := rfl

/-! ### setX -/

@[simp] theorem setX_rpos (s : State) (r : Reg) (v : Word) : (s.setX r v).rpos = s.rpos := rfl
@[simp] theorem setX_status (s : State) (r : Reg) (v : Word) : (s.setX r v).status = s.status := rfl
@[simp] theorem setX_err (s : State) (r : Reg) (v : Word) : (s.setX r v).err = s.err := rfl
@[simp] theorem setX_errinfo (s : State) (r : Reg) (v : Word) : (s.setX r v).errinfo = s.errinfo := rfl
@[simp] theorem setX_bufcnt (s : State) (r : Reg) (v : Word) : (s.setX r v).bufcnt = s.bufcnt := rfl
@[simp] theorem setX_bytecnt (s : State) (r : Reg) (v : Word) : (s.setX r v).bytecnt = s.bytecnt := rfl
@[simp] theorem setX_maccl (s : State) (r : Reg) (v : Word) : (s.setX r v).maccl = s.maccl := rfl
@[simp] theorem setX_maccr (s : State) (r : Reg) (v : Word) : (s.setX r v).maccr = s.maccr := rfl
@[simp] theorem setX_tracks (s : State) (r : Reg) (v : Word) : (s.setX r v).tracks = s.tracks := rfl
@[simp] theorem setX_mem (s : State) (r : Reg) (v : Word) : (s.setX r v).mem = s.mem := rfl
@[simp] theorem setX_events (s : State) (r : Reg) (v : Word) : (s.setX r v).events = s.events := rfl
@[simp] theorem setX_inputs (s : State) (r : Reg) (v : Word) : (s.setX r v).inputs = s.inputs := rfl
@[simp] theorem setX_track (s : State) (r : Reg) (v : Word) (j : Fin Config.NTRK) : (s.setX r v).track j = s.track j := rfl
@[simp] theorem setX_wordAt (s : State) (r : Reg) (v : Word) (sp' : Space) (b' : Nat) : (s.setX r v).wordAt sp' b' = s.wordAt sp' b' := rfl
@[simp] theorem setX_byteAt (s : State) (r : Reg) (v : Word) (sp' : Space) (b' : Nat) : (s.setX r v).byteAt sp' b' = s.byteAt sp' b' := rfl
@[simp] theorem setX_ft (s : State) (r : Reg) (v : Word) (n' : Nat) : (s.setX r v).ft n' = s.ft n' := rfl

/-! ### setPair -/

@[simp] theorem setPair_rpos (s : State) (r : Reg) (v : Word × Word) : (s.setPair r v).rpos = s.rpos := rfl
@[simp] theorem setPair_status (s : State) (r : Reg) (v : Word × Word) : (s.setPair r v).status = s.status := rfl
@[simp] theorem setPair_err (s : State) (r : Reg) (v : Word × Word) : (s.setPair r v).err = s.err := rfl
@[simp] theorem setPair_errinfo (s : State) (r : Reg) (v : Word × Word) : (s.setPair r v).errinfo = s.errinfo := rfl
@[simp] theorem setPair_bufcnt (s : State) (r : Reg) (v : Word × Word) : (s.setPair r v).bufcnt = s.bufcnt := rfl
@[simp] theorem setPair_bytecnt (s : State) (r : Reg) (v : Word × Word) : (s.setPair r v).bytecnt = s.bytecnt := rfl
@[simp] theorem setPair_maccl (s : State) (r : Reg) (v : Word × Word) : (s.setPair r v).maccl = s.maccl := rfl
@[simp] theorem setPair_maccr (s : State) (r : Reg) (v : Word × Word) : (s.setPair r v).maccr = s.maccr := rfl
@[simp] theorem setPair_tracks (s : State) (r : Reg) (v : Word × Word) : (s.setPair r v).tracks = s.tracks := rfl
@[simp] theorem setPair_mem (s : State) (r : Reg) (v : Word × Word) : (s.setPair r v).mem = s.mem := rfl
@[simp] theorem setPair_events (s : State) (r : Reg) (v : Word × Word) : (s.setPair r v).events = s.events := rfl
@[simp] theorem setPair_inputs (s : State) (r : Reg) (v : Word × Word) : (s.setPair r v).inputs = s.inputs := rfl
@[simp] theorem setPair_track (s : State) (r : Reg) (v : Word × Word) (j : Fin Config.NTRK) : (s.setPair r v).track j = s.track j := rfl
@[simp] theorem setPair_wordAt (s : State) (r : Reg) (v : Word × Word) (sp' : Space) (b' : Nat) : (s.setPair r v).wordAt sp' b' = s.wordAt sp' b' := rfl
@[simp] theorem setPair_byteAt (s : State) (r : Reg) (v : Word × Word) (sp' : Space) (b' : Nat) : (s.setPair r v).byteAt sp' b' = s.byteAt sp' b' := rfl
@[simp] theorem setPair_ft (s : State) (r : Reg) (v : Word × Word) (n' : Nat) : (s.setPair r v).ft n' = s.ft n' := rfl

/-! ### setQuad -/

@[simp] theorem setQuad_rpos (s : State) (r : Reg) (v : Voice) : (s.setQuad r v).rpos = s.rpos := rfl
@[simp] theorem setQuad_status (s : State) (r : Reg) (v : Voice) : (s.setQuad r v).status = s.status := rfl
@[simp] theorem setQuad_err (s : State) (r : Reg) (v : Voice) : (s.setQuad r v).err = s.err := rfl
@[simp] theorem setQuad_errinfo (s : State) (r : Reg) (v : Voice) : (s.setQuad r v).errinfo = s.errinfo := rfl
@[simp] theorem setQuad_bufcnt (s : State) (r : Reg) (v : Voice) : (s.setQuad r v).bufcnt = s.bufcnt := rfl
@[simp] theorem setQuad_bytecnt (s : State) (r : Reg) (v : Voice) : (s.setQuad r v).bytecnt = s.bytecnt := rfl
@[simp] theorem setQuad_maccl (s : State) (r : Reg) (v : Voice) : (s.setQuad r v).maccl = s.maccl := rfl
@[simp] theorem setQuad_maccr (s : State) (r : Reg) (v : Voice) : (s.setQuad r v).maccr = s.maccr := rfl
@[simp] theorem setQuad_tracks (s : State) (r : Reg) (v : Voice) : (s.setQuad r v).tracks = s.tracks := rfl
@[simp] theorem setQuad_mem (s : State) (r : Reg) (v : Voice) : (s.setQuad r v).mem = s.mem := rfl
@[simp] theorem setQuad_events (s : State) (r : Reg) (v : Voice) : (s.setQuad r v).events = s.events := rfl
@[simp] theorem setQuad_inputs (s : State) (r : Reg) (v : Voice) : (s.setQuad r v).inputs = s.inputs := rfl
@[simp] theorem setQuad_track (s : State) (r : Reg) (v : Voice) (j : Fin Config.NTRK) : (s.setQuad r v).track j = s.track j := rfl
@[simp] theorem setQuad_wordAt (s : State) (r : Reg) (v : Voice) (sp' : Space) (b' : Nat) : (s.setQuad r v).wordAt sp' b' = s.wordAt sp' b' := rfl
@[simp] theorem setQuad_byteAt (s : State) (r : Reg) (v : Voice) (sp' : Space) (b' : Nat) : (s.setQuad r v).byteAt sp' b' = s.byteAt sp' b' := rfl
@[simp] theorem setQuad_ft (s : State) (r : Reg) (v : Voice) (n' : Nat) : (s.setQuad r v).ft n' = s.ft n' := rfl

/-! ### setTrack -/

@[simp] theorem setTrack_x (s : State) (k : Fin Config.NTRK) (tr : Track) : (s.setTrack k tr).x = s.x := rfl
@[simp] theorem setTrack_rpos (s : State) (k : Fin Config.NTRK) (tr : Track) : (s.setTrack k tr).rpos = s.rpos := rfl
@[simp] theorem setTrack_status (s : State) (k : Fin Config.NTRK) (tr : Track) : (s.setTrack k tr).status = s.status := rfl
@[simp] theorem setTrack_err (s : State) (k : Fin Config.NTRK) (tr : Track) : (s.setTrack k tr).err = s.err := rfl
@[simp] theorem setTrack_errinfo (s : State) (k : Fin Config.NTRK) (tr : Track) : (s.setTrack k tr).errinfo = s.errinfo := rfl
@[simp] theorem setTrack_bufcnt (s : State) (k : Fin Config.NTRK) (tr : Track) : (s.setTrack k tr).bufcnt = s.bufcnt := rfl
@[simp] theorem setTrack_bytecnt (s : State) (k : Fin Config.NTRK) (tr : Track) : (s.setTrack k tr).bytecnt = s.bytecnt := rfl
@[simp] theorem setTrack_maccl (s : State) (k : Fin Config.NTRK) (tr : Track) : (s.setTrack k tr).maccl = s.maccl := rfl
@[simp] theorem setTrack_maccr (s : State) (k : Fin Config.NTRK) (tr : Track) : (s.setTrack k tr).maccr = s.maccr := rfl
@[simp] theorem setTrack_mem (s : State) (k : Fin Config.NTRK) (tr : Track) : (s.setTrack k tr).mem = s.mem := rfl
@[simp] theorem setTrack_events (s : State) (k : Fin Config.NTRK) (tr : Track) : (s.setTrack k tr).events = s.events := rfl
@[simp] theorem setTrack_inputs (s : State) (k : Fin Config.NTRK) (tr : Track) : (s.setTrack k tr).inputs = s.inputs := rfl
@[simp] theorem setTrack_getX (s : State) (k : Fin Config.NTRK) (tr : Track) (r' : Reg) : (s.setTrack k tr).getX r' = s.getX r' := rfl
@[simp] theorem setTrack_wordAt (s : State) (k : Fin Config.NTRK) (tr : Track) (sp' : Space) (b' : Nat) : (s.setTrack k tr).wordAt sp' b' = s.wordAt sp' b' := rfl
@[simp] theorem setTrack_byteAt (s : State) (k : Fin Config.NTRK) (tr : Track) (sp' : Space) (b' : Nat) : (s.setTrack k tr).byteAt sp' b' = s.byteAt sp' b' := rfl
@[simp] theorem setTrack_ft (s : State) (k : Fin Config.NTRK) (tr : Track) (n' : Nat) : (s.setTrack k tr).ft n' = s.ft n' := rfl

/-! ### setWordAt -/

@[simp] theorem setWordAt_x (s : State) (sp : Space) (a : Nat) (v : Word) : (s.setWordAt sp a v).x = s.x := withMem_x s _
@[simp] theorem setWordAt_rpos (s : State) (sp : Space) (a : Nat) (v : Word) : (s.setWordAt sp a v).rpos = s.rpos := withMem_rpos s _
@[simp] theorem setWordAt_status (s : State) (sp : Space) (a : Nat) (v : Word) : (s.setWordAt sp a v).status = s.status := withMem_status s _
@[simp] theorem setWordAt_err (s : State) (sp : Space) (a : Nat) (v : Word) : (s.setWordAt sp a v).err = s.err := withMem_err s _
@[simp] theorem setWordAt_errinfo (s : State) (sp : Space) (a : Nat) (v : Word) : (s.setWordAt sp a v).errinfo = s.errinfo := withMem_errinfo s _
@[simp] theorem setWordAt_bufcnt (s : State) (sp : Space) (a : Nat) (v : Word) : (s.setWordAt sp a v).bufcnt = s.bufcnt := withMem_bufcnt s _
@[simp] theorem setWordAt_bytecnt (s : State) (sp : Space) (a : Nat) (v : Word) : (s.setWordAt sp a v).bytecnt = s.bytecnt := withMem_bytecnt s _
@[simp] theorem setWordAt_maccl (s : State) (sp : Space) (a : Nat) (v : Word) : (s.setWordAt sp a v).maccl = s.maccl := withMem_maccl s _
@[simp] theorem setWordAt_maccr (s : State) (sp : Space) (a : Nat) (v : Word) : (s.setWordAt sp a v).maccr = s.maccr := withMem_maccr s _
@[simp] theorem setWordAt_tracks (s : State) (sp : Space) (a : Nat) (v : Word) : (s.setWordAt sp a v).tracks = s.tracks := withMem_tracks s _
@[simp] theorem setWordAt_events (s : State) (sp : Space) (a : Nat) (v : Word) : (s.setWordAt sp a v).events = s.events := withMem_events s _
@[simp] theorem setWordAt_inputs (s : State) (sp : Space) (a : Nat) (v : Word) : (s.setWordAt sp a v).inputs = s.inputs := withMem_inputs s _
@[simp] theorem setWordAt_getX (s : State) (sp : Space) (a : Nat) (v : Word) (r' : Reg) : (s.setWordAt sp a v).getX r' = s.getX r' := withMem_getX s _ _
@[simp] theorem setWordAt_track (s : State) (sp : Space) (a : Nat) (v : Word) (j : Fin Config.NTRK) : (s.setWordAt sp a v).track j = s.track j := withMem_track s _ _

/-! ### setByteAt -/

@[simp] theorem setByteAt_x (s : State) (sp : Space) (a : Nat) (v : Byte) : (s.setByteAt sp a v).x = s.x := withMem_x s _
@[simp] theorem setByteAt_rpos (s : State) (sp : Space) (a : Nat) (v : Byte) : (s.setByteAt sp a v).rpos = s.rpos := withMem_rpos s _
@[simp] theorem setByteAt_status (s : State) (sp : Space) (a : Nat) (v : Byte) : (s.setByteAt sp a v).status = s.status := withMem_status s _
@[simp] theorem setByteAt_err (s : State) (sp : Space) (a : Nat) (v : Byte) : (s.setByteAt sp a v).err = s.err := withMem_err s _
@[simp] theorem setByteAt_errinfo (s : State) (sp : Space) (a : Nat) (v : Byte) : (s.setByteAt sp a v).errinfo = s.errinfo := withMem_errinfo s _
@[simp] theorem setByteAt_bufcnt (s : State) (sp : Space) (a : Nat) (v : Byte) : (s.setByteAt sp a v).bufcnt = s.bufcnt := withMem_bufcnt s _
@[simp] theorem setByteAt_bytecnt (s : State) (sp : Space) (a : Nat) (v : Byte) : (s.setByteAt sp a v).bytecnt = s.bytecnt := withMem_bytecnt s _
@[simp] theorem setByteAt_maccl (s : State) (sp : Space) (a : Nat) (v : Byte) : (s.setByteAt sp a v).maccl = s.maccl := withMem_maccl s _
@[simp] theorem setByteAt_maccr (s : State) (sp : Space) (a : Nat) (v : Byte) : (s.setByteAt sp a v).maccr = s.maccr := withMem_maccr s _
@[simp] theorem setByteAt_tracks (s : State) (sp : Space) (a : Nat) (v : Byte) : (s.setByteAt sp a v).tracks = s.tracks := withMem_tracks s _
@[simp] theorem setByteAt_events (s : State) (sp : Space) (a : Nat) (v : Byte) : (s.setByteAt sp a v).events = s.events := withMem_events s _
@[simp] theorem setByteAt_inputs (s : State) (sp : Space) (a : Nat) (v : Byte) : (s.setByteAt sp a v).inputs = s.inputs := withMem_inputs s _
@[simp] theorem setByteAt_getX (s : State) (sp : Space) (a : Nat) (v : Byte) (r' : Reg) : (s.setByteAt sp a v).getX r' = s.getX r' := withMem_getX s _ _
@[simp] theorem setByteAt_track (s : State) (sp : Space) (a : Nat) (v : Byte) (j : Fin Config.NTRK) : (s.setByteAt sp a v).track j = s.track j := withMem_track s _ _

/-! ### zeroWords -/

@[simp] theorem zeroWords_x (s : State) (sp : Space) (a n : Nat) : (s.zeroWords sp a n).x = s.x := withMem_x s _
@[simp] theorem zeroWords_rpos (s : State) (sp : Space) (a n : Nat) : (s.zeroWords sp a n).rpos = s.rpos := withMem_rpos s _
@[simp] theorem zeroWords_status (s : State) (sp : Space) (a n : Nat) : (s.zeroWords sp a n).status = s.status := withMem_status s _
@[simp] theorem zeroWords_err (s : State) (sp : Space) (a n : Nat) : (s.zeroWords sp a n).err = s.err := withMem_err s _
@[simp] theorem zeroWords_errinfo (s : State) (sp : Space) (a n : Nat) : (s.zeroWords sp a n).errinfo = s.errinfo := withMem_errinfo s _
@[simp] theorem zeroWords_bufcnt (s : State) (sp : Space) (a n : Nat) : (s.zeroWords sp a n).bufcnt = s.bufcnt := withMem_bufcnt s _
@[simp] theorem zeroWords_bytecnt (s : State) (sp : Space) (a n : Nat) : (s.zeroWords sp a n).bytecnt = s.bytecnt := withMem_bytecnt s _
@[simp] theorem zeroWords_maccl (s : State) (sp : Space) (a n : Nat) : (s.zeroWords sp a n).maccl = s.maccl := withMem_maccl s _
@[simp] theorem zeroWords_maccr (s : State) (sp : Space) (a n : Nat) : (s.zeroWords sp a n).maccr = s.maccr := withMem_maccr s _
@[simp] theorem zeroWords_tracks (s : State) (sp : Space) (a n : Nat) : (s.zeroWords sp a n).tracks = s.tracks := withMem_tracks s _
@[simp] theorem zeroWords_events (s : State) (sp : Space) (a n : Nat) : (s.zeroWords sp a n).events = s.events := withMem_events s _
@[simp] theorem zeroWords_inputs (s : State) (sp : Space) (a n : Nat) : (s.zeroWords sp a n).inputs = s.inputs := withMem_inputs s _
@[simp] theorem zeroWords_getX (s : State) (sp : Space) (a n : Nat) (r' : Reg) : (s.zeroWords sp a n).getX r' = s.getX r' := withMem_getX s _ _
@[simp] theorem zeroWords_track (s : State) (sp : Space) (a n : Nat) (j : Fin Config.NTRK) : (s.zeroWords sp a n).track j = s.track j := withMem_track s _ _

/-! ### flag -/

@[simp] theorem flag_x (s : State) (c : Condition) : (s.flag c).x = s.x := rfl
@[simp] theorem flag_rpos (s : State) (c : Condition) : (s.flag c).rpos = s.rpos := rfl
@[simp] theorem flag_status (s : State) (c : Condition) : (s.flag c).status = s.status := rfl
@[simp] theorem flag_errinfo (s : State) (c : Condition) : (s.flag c).errinfo = s.errinfo := rfl
@[simp] theorem flag_bufcnt (s : State) (c : Condition) : (s.flag c).bufcnt = s.bufcnt := rfl
@[simp] theorem flag_bytecnt (s : State) (c : Condition) : (s.flag c).bytecnt = s.bytecnt := rfl
@[simp] theorem flag_maccl (s : State) (c : Condition) : (s.flag c).maccl = s.maccl := rfl
@[simp] theorem flag_maccr (s : State) (c : Condition) : (s.flag c).maccr = s.maccr := rfl
@[simp] theorem flag_tracks (s : State) (c : Condition) : (s.flag c).tracks = s.tracks := rfl
@[simp] theorem flag_mem (s : State) (c : Condition) : (s.flag c).mem = s.mem := rfl
@[simp] theorem flag_events (s : State) (c : Condition) : (s.flag c).events = s.events := rfl
@[simp] theorem flag_inputs (s : State) (c : Condition) : (s.flag c).inputs = s.inputs := rfl
@[simp] theorem flag_getX (s : State) (c : Condition) (r' : Reg) : (s.flag c).getX r' = s.getX r' := rfl
@[simp] theorem flag_track (s : State) (c : Condition) (j : Fin Config.NTRK) : (s.flag c).track j = s.track j := rfl
@[simp] theorem flag_wordAt (s : State) (c : Condition) (sp' : Space) (b' : Nat) : (s.flag c).wordAt sp' b' = s.wordAt sp' b' := rfl
@[simp] theorem flag_byteAt (s : State) (c : Condition) (sp' : Space) (b' : Nat) : (s.flag c).byteAt sp' b' = s.byteAt sp' b' := rfl
@[simp] theorem flag_ft (s : State) (c : Condition) (n' : Nat) : (s.flag c).ft n' = s.ft n' := rfl

/-! ### flagIf -/

@[simp] theorem flagIf_x (s : State) (b : Bool) (c : Condition) : (s.flagIf b c).x = s.x := by cases b <;> rfl
@[simp] theorem flagIf_rpos (s : State) (b : Bool) (c : Condition) : (s.flagIf b c).rpos = s.rpos := by cases b <;> rfl
@[simp] theorem flagIf_status (s : State) (b : Bool) (c : Condition) : (s.flagIf b c).status = s.status := by cases b <;> rfl
@[simp] theorem flagIf_errinfo (s : State) (b : Bool) (c : Condition) : (s.flagIf b c).errinfo = s.errinfo := by cases b <;> rfl
@[simp] theorem flagIf_bufcnt (s : State) (b : Bool) (c : Condition) : (s.flagIf b c).bufcnt = s.bufcnt := by cases b <;> rfl
@[simp] theorem flagIf_bytecnt (s : State) (b : Bool) (c : Condition) : (s.flagIf b c).bytecnt = s.bytecnt := by cases b <;> rfl
@[simp] theorem flagIf_maccl (s : State) (b : Bool) (c : Condition) : (s.flagIf b c).maccl = s.maccl := by cases b <;> rfl
@[simp] theorem flagIf_maccr (s : State) (b : Bool) (c : Condition) : (s.flagIf b c).maccr = s.maccr := by cases b <;> rfl
@[simp] theorem flagIf_tracks (s : State) (b : Bool) (c : Condition) : (s.flagIf b c).tracks = s.tracks := by cases b <;> rfl
@[simp] theorem flagIf_mem (s : State) (b : Bool) (c : Condition) : (s.flagIf b c).mem = s.mem := by cases b <;> rfl
@[simp] theorem flagIf_events (s : State) (b : Bool) (c : Condition) : (s.flagIf b c).events = s.events := by cases b <;> rfl
@[simp] theorem flagIf_inputs (s : State) (b : Bool) (c : Condition) : (s.flagIf b c).inputs = s.inputs := by cases b <;> rfl
@[simp] theorem flagIf_getX (s : State) (b : Bool) (c : Condition) (r' : Reg) : (s.flagIf b c).getX r' = s.getX r' := by cases b <;> rfl
@[simp] theorem flagIf_track (s : State) (b : Bool) (c : Condition) (j : Fin Config.NTRK) : (s.flagIf b c).track j = s.track j := by cases b <;> rfl
@[simp] theorem flagIf_wordAt (s : State) (b : Bool) (c : Condition) (sp' : Space) (b' : Nat) : (s.flagIf b c).wordAt sp' b' = s.wordAt sp' b' := by cases b <;> rfl
@[simp] theorem flagIf_byteAt (s : State) (b : Bool) (c : Condition) (sp' : Space) (b' : Nat) : (s.flagIf b c).byteAt sp' b' = s.byteAt sp' b' := by cases b <;> rfl
@[simp] theorem flagIf_ft (s : State) (b : Bool) (c : Condition) (n' : Nat) : (s.flagIf b c).ft n' = s.ft n' := by cases b <;> rfl

/-! ### raise -/

@[simp] theorem raise_x (s : State) (c : Condition) (w : Word) : (s.raise c w).x = s.x := rfl
@[simp] theorem raise_rpos (s : State) (c : Condition) (w : Word) : (s.raise c w).rpos = s.rpos := rfl
@[simp] theorem raise_status (s : State) (c : Condition) (w : Word) : (s.raise c w).status = s.status := rfl
@[simp] theorem raise_bufcnt (s : State) (c : Condition) (w : Word) : (s.raise c w).bufcnt = s.bufcnt := rfl
@[simp] theorem raise_bytecnt (s : State) (c : Condition) (w : Word) : (s.raise c w).bytecnt = s.bytecnt := rfl
@[simp] theorem raise_maccl (s : State) (c : Condition) (w : Word) : (s.raise c w).maccl = s.maccl := rfl
@[simp] theorem raise_maccr (s : State) (c : Condition) (w : Word) : (s.raise c w).maccr = s.maccr := rfl
@[simp] theorem raise_tracks (s : State) (c : Condition) (w : Word) : (s.raise c w).tracks = s.tracks := rfl
@[simp] theorem raise_mem (s : State) (c : Condition) (w : Word) : (s.raise c w).mem = s.mem := rfl
@[simp] theorem raise_events (s : State) (c : Condition) (w : Word) : (s.raise c w).events = s.events := rfl
@[simp] theorem raise_inputs (s : State) (c : Condition) (w : Word) : (s.raise c w).inputs = s.inputs := rfl
@[simp] theorem raise_getX (s : State) (c : Condition) (w : Word) (r' : Reg) : (s.raise c w).getX r' = s.getX r' := rfl
@[simp] theorem raise_track (s : State) (c : Condition) (w : Word) (j : Fin Config.NTRK) : (s.raise c w).track j = s.track j := rfl
@[simp] theorem raise_wordAt (s : State) (c : Condition) (w : Word) (sp' : Space) (b' : Nat) : (s.raise c w).wordAt sp' b' = s.wordAt sp' b' := rfl
@[simp] theorem raise_byteAt (s : State) (c : Condition) (w : Word) (sp' : Space) (b' : Nat) : (s.raise c w).byteAt sp' b' = s.byteAt sp' b' := rfl
@[simp] theorem raise_ft (s : State) (c : Condition) (w : Word) (n' : Nat) : (s.raise c w).ft n' = s.ft n' := rfl

/-! ### ackErr -/

@[simp] theorem ackErr_x (s : State) (v : Word) : (s.ackErr v).x = s.x := rfl
@[simp] theorem ackErr_rpos (s : State) (v : Word) : (s.ackErr v).rpos = s.rpos := rfl
@[simp] theorem ackErr_status (s : State) (v : Word) : (s.ackErr v).status = s.status := rfl
@[simp] theorem ackErr_errinfo (s : State) (v : Word) : (s.ackErr v).errinfo = s.errinfo := rfl
@[simp] theorem ackErr_bufcnt (s : State) (v : Word) : (s.ackErr v).bufcnt = s.bufcnt := rfl
@[simp] theorem ackErr_bytecnt (s : State) (v : Word) : (s.ackErr v).bytecnt = s.bytecnt := rfl
@[simp] theorem ackErr_maccl (s : State) (v : Word) : (s.ackErr v).maccl = s.maccl := rfl
@[simp] theorem ackErr_maccr (s : State) (v : Word) : (s.ackErr v).maccr = s.maccr := rfl
@[simp] theorem ackErr_tracks (s : State) (v : Word) : (s.ackErr v).tracks = s.tracks := rfl
@[simp] theorem ackErr_mem (s : State) (v : Word) : (s.ackErr v).mem = s.mem := rfl
@[simp] theorem ackErr_events (s : State) (v : Word) : (s.ackErr v).events = s.events := rfl
@[simp] theorem ackErr_inputs (s : State) (v : Word) : (s.ackErr v).inputs = s.inputs := rfl
@[simp] theorem ackErr_getX (s : State) (v : Word) (r' : Reg) : (s.ackErr v).getX r' = s.getX r' := rfl
@[simp] theorem ackErr_track (s : State) (v : Word) (j : Fin Config.NTRK) : (s.ackErr v).track j = s.track j := rfl
@[simp] theorem ackErr_wordAt (s : State) (v : Word) (sp' : Space) (b' : Nat) : (s.ackErr v).wordAt sp' b' = s.wordAt sp' b' := rfl
@[simp] theorem ackErr_byteAt (s : State) (v : Word) (sp' : Space) (b' : Nat) : (s.ackErr v).byteAt sp' b' = s.byteAt sp' b' := rfl
@[simp] theorem ackErr_ft (s : State) (v : Word) (n' : Nat) : (s.ackErr v).ft n' = s.ft n' := rfl

/-! ### afterDraw -/

@[simp] theorem afterDraw_x (s : State) : (s.afterDraw).x = s.x := by unfold State.afterDraw; split <;> rfl
@[simp] theorem afterDraw_rpos (s : State) : (s.afterDraw).rpos = s.rpos := by unfold State.afterDraw; split <;> rfl
@[simp] theorem afterDraw_status (s : State) : (s.afterDraw).status = s.status := by unfold State.afterDraw; split <;> rfl
@[simp] theorem afterDraw_err (s : State) : (s.afterDraw).err = s.err := by unfold State.afterDraw; split <;> rfl
@[simp] theorem afterDraw_errinfo (s : State) : (s.afterDraw).errinfo = s.errinfo := by unfold State.afterDraw; split <;> rfl
@[simp] theorem afterDraw_bufcnt (s : State) : (s.afterDraw).bufcnt = s.bufcnt := by unfold State.afterDraw; split <;> rfl
@[simp] theorem afterDraw_bytecnt (s : State) : (s.afterDraw).bytecnt = s.bytecnt := by unfold State.afterDraw; split <;> rfl
@[simp] theorem afterDraw_maccl (s : State) : (s.afterDraw).maccl = s.maccl := by unfold State.afterDraw; split <;> rfl
@[simp] theorem afterDraw_maccr (s : State) : (s.afterDraw).maccr = s.maccr := by unfold State.afterDraw; split <;> rfl
@[simp] theorem afterDraw_tracks (s : State) : (s.afterDraw).tracks = s.tracks := by unfold State.afterDraw; split <;> rfl
@[simp] theorem afterDraw_mem (s : State) : (s.afterDraw).mem = s.mem := by unfold State.afterDraw; split <;> rfl
@[simp] theorem afterDraw_events (s : State) : (s.afterDraw).events = s.events := by unfold State.afterDraw; split <;> rfl
@[simp] theorem afterDraw_getX (s : State) (r' : Reg) : (s.afterDraw).getX r' = s.getX r' := by unfold State.afterDraw; split <;> rfl
@[simp] theorem afterDraw_track (s : State) (j : Fin Config.NTRK) : (s.afterDraw).track j = s.track j := by unfold State.afterDraw; split <;> rfl
@[simp] theorem afterDraw_wordAt (s : State) (sp' : Space) (b' : Nat) : (s.afterDraw).wordAt sp' b' = s.wordAt sp' b' := by unfold State.afterDraw; split <;> rfl
@[simp] theorem afterDraw_byteAt (s : State) (sp' : Space) (b' : Nat) : (s.afterDraw).byteAt sp' b' = s.byteAt sp' b' := by unfold State.afterDraw; split <;> rfl
@[simp] theorem afterDraw_ft (s : State) (n' : Nat) : (s.afterDraw).ft n' = s.ft n' := by unfold State.afterDraw; split <;> rfl

/-! ### setSlot -/

@[simp] theorem setSlot_x (s : State) (q : Fin Config.NSLOT) : (s.setSlot q).x = s.x := rfl
@[simp] theorem setSlot_status (s : State) (q : Fin Config.NSLOT) : (s.setSlot q).status = s.status := rfl
@[simp] theorem setSlot_err (s : State) (q : Fin Config.NSLOT) : (s.setSlot q).err = s.err := rfl
@[simp] theorem setSlot_errinfo (s : State) (q : Fin Config.NSLOT) : (s.setSlot q).errinfo = s.errinfo := rfl
@[simp] theorem setSlot_bufcnt (s : State) (q : Fin Config.NSLOT) : (s.setSlot q).bufcnt = s.bufcnt := rfl
@[simp] theorem setSlot_bytecnt (s : State) (q : Fin Config.NSLOT) : (s.setSlot q).bytecnt = s.bytecnt := rfl
@[simp] theorem setSlot_maccl (s : State) (q : Fin Config.NSLOT) : (s.setSlot q).maccl = s.maccl := rfl
@[simp] theorem setSlot_maccr (s : State) (q : Fin Config.NSLOT) : (s.setSlot q).maccr = s.maccr := rfl
@[simp] theorem setSlot_tracks (s : State) (q : Fin Config.NSLOT) : (s.setSlot q).tracks = s.tracks := rfl
@[simp] theorem setSlot_mem (s : State) (q : Fin Config.NSLOT) : (s.setSlot q).mem = s.mem := rfl
@[simp] theorem setSlot_events (s : State) (q : Fin Config.NSLOT) : (s.setSlot q).events = s.events := rfl
@[simp] theorem setSlot_inputs (s : State) (q : Fin Config.NSLOT) : (s.setSlot q).inputs = s.inputs := rfl
@[simp] theorem setSlot_getX (s : State) (q : Fin Config.NSLOT) (r' : Reg) : (s.setSlot q).getX r' = s.getX r' := rfl
@[simp] theorem setSlot_track (s : State) (q : Fin Config.NSLOT) (j : Fin Config.NTRK) : (s.setSlot q).track j = s.track j := rfl
@[simp] theorem setSlot_wordAt (s : State) (q : Fin Config.NSLOT) (sp' : Space) (b' : Nat) : (s.setSlot q).wordAt sp' b' = s.wordAt sp' b' := rfl
@[simp] theorem setSlot_byteAt (s : State) (q : Fin Config.NSLOT) (sp' : Space) (b' : Nat) : (s.setSlot q).byteAt sp' b' = s.byteAt sp' b' := rfl
@[simp] theorem setSlot_ft (s : State) (q : Fin Config.NSLOT) (n' : Nat) : (s.setSlot q).ft n' = s.ft n' := rfl

/-! ### queueCommand -/

@[simp] theorem queueCommand_x (s : State) (w : Word) : (s.queueCommand w).x = s.x := rfl
@[simp] theorem queueCommand_rpos (s : State) (w : Word) : (s.queueCommand w).rpos = s.rpos := rfl
@[simp] theorem queueCommand_status (s : State) (w : Word) : (s.queueCommand w).status = s.status := rfl
@[simp] theorem queueCommand_err (s : State) (w : Word) : (s.queueCommand w).err = s.err := rfl
@[simp] theorem queueCommand_errinfo (s : State) (w : Word) : (s.queueCommand w).errinfo = s.errinfo := rfl
@[simp] theorem queueCommand_bufcnt (s : State) (w : Word) : (s.queueCommand w).bufcnt = s.bufcnt := rfl
@[simp] theorem queueCommand_bytecnt (s : State) (w : Word) : (s.queueCommand w).bytecnt = s.bytecnt := rfl
@[simp] theorem queueCommand_maccl (s : State) (w : Word) : (s.queueCommand w).maccl = s.maccl := rfl
@[simp] theorem queueCommand_maccr (s : State) (w : Word) : (s.queueCommand w).maccr = s.maccr := rfl
@[simp] theorem queueCommand_tracks (s : State) (w : Word) : (s.queueCommand w).tracks = s.tracks := rfl
@[simp] theorem queueCommand_mem (s : State) (w : Word) : (s.queueCommand w).mem = s.mem := rfl
@[simp] theorem queueCommand_events (s : State) (w : Word) : (s.queueCommand w).events = s.events := rfl
@[simp] theorem queueCommand_getX (s : State) (w : Word) (r' : Reg) : (s.queueCommand w).getX r' = s.getX r' := rfl
@[simp] theorem queueCommand_track (s : State) (w : Word) (j : Fin Config.NTRK) : (s.queueCommand w).track j = s.track j := rfl
@[simp] theorem queueCommand_wordAt (s : State) (w : Word) (sp' : Space) (b' : Nat) : (s.queueCommand w).wordAt sp' b' = s.wordAt sp' b' := rfl
@[simp] theorem queueCommand_byteAt (s : State) (w : Word) (sp' : Space) (b' : Nat) : (s.queueCommand w).byteAt sp' b' = s.byteAt sp' b' := rfl
@[simp] theorem queueCommand_ft (s : State) (w : Word) (n' : Nat) : (s.queueCommand w).ft n' = s.ft n' := rfl

/-! ### dropTurn -/

@[simp] theorem dropTurn_x (s : State) : (s.dropTurn).x = s.x := rfl
@[simp] theorem dropTurn_rpos (s : State) : (s.dropTurn).rpos = s.rpos := rfl
@[simp] theorem dropTurn_status (s : State) : (s.dropTurn).status = s.status := rfl
@[simp] theorem dropTurn_err (s : State) : (s.dropTurn).err = s.err := rfl
@[simp] theorem dropTurn_errinfo (s : State) : (s.dropTurn).errinfo = s.errinfo := rfl
@[simp] theorem dropTurn_bufcnt (s : State) : (s.dropTurn).bufcnt = s.bufcnt := rfl
@[simp] theorem dropTurn_bytecnt (s : State) : (s.dropTurn).bytecnt = s.bytecnt := rfl
@[simp] theorem dropTurn_maccl (s : State) : (s.dropTurn).maccl = s.maccl := rfl
@[simp] theorem dropTurn_maccr (s : State) : (s.dropTurn).maccr = s.maccr := rfl
@[simp] theorem dropTurn_tracks (s : State) : (s.dropTurn).tracks = s.tracks := rfl
@[simp] theorem dropTurn_mem (s : State) : (s.dropTurn).mem = s.mem := rfl
@[simp] theorem dropTurn_events (s : State) : (s.dropTurn).events = s.events := rfl
@[simp] theorem dropTurn_getX (s : State) (r' : Reg) : (s.dropTurn).getX r' = s.getX r' := rfl
@[simp] theorem dropTurn_track (s : State) (j : Fin Config.NTRK) : (s.dropTurn).track j = s.track j := rfl
@[simp] theorem dropTurn_wordAt (s : State) (sp' : Space) (b' : Nat) : (s.dropTurn).wordAt sp' b' = s.wordAt sp' b' := rfl
@[simp] theorem dropTurn_byteAt (s : State) (sp' : Space) (b' : Nat) : (s.dropTurn).byteAt sp' b' = s.byteAt sp' b' := rfl
@[simp] theorem dropTurn_ft (s : State) (n' : Nat) : (s.dropTurn).ft n' = s.ft n' := rfl

/-! ### direct -/

@[simp] theorem direct_x (s : State) : (s.direct).x = s.x := rfl
@[simp] theorem direct_rpos (s : State) : (s.direct).rpos = s.rpos := rfl
@[simp] theorem direct_err (s : State) : (s.direct).err = s.err := rfl
@[simp] theorem direct_errinfo (s : State) : (s.direct).errinfo = s.errinfo := rfl
@[simp] theorem direct_bufcnt (s : State) : (s.direct).bufcnt = s.bufcnt := rfl
@[simp] theorem direct_bytecnt (s : State) : (s.direct).bytecnt = s.bytecnt := rfl
@[simp] theorem direct_maccl (s : State) : (s.direct).maccl = s.maccl := rfl
@[simp] theorem direct_maccr (s : State) : (s.direct).maccr = s.maccr := rfl
@[simp] theorem direct_tracks (s : State) : (s.direct).tracks = s.tracks := rfl
@[simp] theorem direct_mem (s : State) : (s.direct).mem = s.mem := rfl
@[simp] theorem direct_events (s : State) : (s.direct).events = s.events := rfl
@[simp] theorem direct_inputs (s : State) : (s.direct).inputs = s.inputs := rfl
@[simp] theorem direct_getX (s : State) (r' : Reg) : (s.direct).getX r' = s.getX r' := rfl
@[simp] theorem direct_track (s : State) (j : Fin Config.NTRK) : (s.direct).track j = s.track j := rfl
@[simp] theorem direct_wordAt (s : State) (sp' : Space) (b' : Nat) : (s.direct).wordAt sp' b' = s.wordAt sp' b' := rfl
@[simp] theorem direct_byteAt (s : State) (sp' : Space) (b' : Nat) : (s.direct).byteAt sp' b' = s.byteAt sp' b' := rfl
@[simp] theorem direct_ft (s : State) (n' : Nat) : (s.direct).ft n' = s.ft n' := rfl

/-! ### setHpf -/

@[simp] theorem setHpf_vol (tr : Track) (u : Fin Config.NHPF) (h : HighPass) : (tr.setHpf u h).vol = tr.vol := rfl
@[simp] theorem setHpf_pan (tr : Track) (u : Fin Config.NHPF) (h : HighPass) : (tr.setHpf u h).pan = tr.pan := rfl
@[simp] theorem setHpf_kind (tr : Track) (u : Fin Config.NHPF) (h : HighPass) : (tr.setHpf u h).kind = tr.kind := rfl
@[simp] theorem setHpf_root (tr : Track) (u : Fin Config.NHPF) (h : HighPass) : (tr.setHpf u h).root = tr.root := rfl
@[simp] theorem setHpf_dsend (tr : Track) (u : Fin Config.NHPF) (h : HighPass) : (tr.setHpf u h).dsend = tr.dsend := rfl
@[simp] theorem setHpf_rsend (tr : Track) (u : Fin Config.NHPF) (h : HighPass) : (tr.setHpf u h).rsend = tr.rsend := rfl
@[simp] theorem setHpf_glide (tr : Track) (u : Fin Config.NHPF) (h : HighPass) : (tr.setHpf u h).glide = tr.glide := rfl
@[simp] theorem setHpf_seqvol (tr : Track) (u : Fin Config.NHPF) (h : HighPass) : (tr.setHpf u h).seqvol = tr.seqvol := rfl
@[simp] theorem setHpf_bpm (tr : Track) (u : Fin Config.NHPF) (h : HighPass) : (tr.setHpf u h).bpm = tr.bpm := rfl
@[simp] theorem setHpf_sps (tr : Track) (u : Fin Config.NHPF) (h : HighPass) : (tr.setHpf u h).sps = tr.sps := rfl
@[simp] theorem setHpf_step (tr : Track) (u : Fin Config.NHPF) (h : HighPass) : (tr.setHpf u h).step = tr.step := rfl
@[simp] theorem setHpf_scnt (tr : Track) (u : Fin Config.NHPF) (h : HighPass) : (tr.setHpf u h).scnt = tr.scnt := rfl
@[simp] theorem setHpf_gate (tr : Track) (u : Fin Config.NHPF) (h : HighPass) : (tr.setHpf u h).gate = tr.gate := rfl
@[simp] theorem setHpf_amp (tr : Track) (u : Fin Config.NHPF) (h : HighPass) : (tr.setHpf u h).amp = tr.amp := rfl
@[simp] theorem setHpf_fcur (tr : Track) (u : Fin Config.NHPF) (h : HighPass) : (tr.setHpf u h).fcur = tr.fcur := rfl
@[simp] theorem setHpf_ftgt (tr : Track) (u : Fin Config.NHPF) (h : HighPass) : (tr.setHpf u h).ftgt = tr.ftgt := rfl
@[simp] theorem setHpf_ginc (tr : Track) (u : Fin Config.NHPF) (h : HighPass) : (tr.setHpf u h).ginc = tr.ginc := rfl
@[simp] theorem setHpf_gcnt (tr : Track) (u : Fin Config.NHPF) (h : HighPass) : (tr.setHpf u h).gcnt = tr.gcnt := rfl
@[simp] theorem setHpf_ofreq (tr : Track) (u : Fin Config.NHPF) (h : HighPass) : (tr.setHpf u h).ofreq = tr.ofreq := rfl
@[simp] theorem setHpf_oinc (tr : Track) (u : Fin Config.NHPF) (h : HighPass) : (tr.setHpf u h).oinc = tr.oinc := rfl
@[simp] theorem setHpf_ophase (tr : Track) (u : Fin Config.NHPF) (h : HighPass) : (tr.setHpf u h).ophase = tr.ophase := rfl
@[simp] theorem setHpf_owti (tr : Track) (u : Fin Config.NHPF) (h : HighPass) : (tr.setHpf u h).owti = tr.owti := rfl
@[simp] theorem setHpf_sbase (tr : Track) (u : Fin Config.NHPF) (h : HighPass) : (tr.setHpf u h).sbase = tr.sbase := rfl
@[simp] theorem setHpf_slen (tr : Track) (u : Fin Config.NHPF) (h : HighPass) : (tr.setHpf u h).slen = tr.slen := rfl
@[simp] theorem setHpf_spos (tr : Track) (u : Fin Config.NHPF) (h : HighPass) : (tr.setHpf u h).spos = tr.spos := rfl
@[simp] theorem setHpf_dlvl (tr : Track) (u : Fin Config.NHPF) (h : HighPass) : (tr.setHpf u h).dlvl = tr.dlvl := rfl
@[simp] theorem setHpf_dfb (tr : Track) (u : Fin Config.NHPF) (h : HighPass) : (tr.setHpf u h).dfb = tr.dfb := rfl
@[simp] theorem setHpf_dspr (tr : Track) (u : Fin Config.NHPF) (h : HighPass) : (tr.setHpf u h).dspr = tr.dspr := rfl
@[simp] theorem setHpf_dlag (tr : Track) (u : Fin Config.NHPF) (h : HighPass) : (tr.setHpf u h).dlag = tr.dlag := rfl
@[simp] theorem setHpf_dwp (tr : Track) (u : Fin Config.NHPF) (h : HighPass) : (tr.setHpf u h).dwp = tr.dwp := rfl
@[simp] theorem setHpf_drp (tr : Track) (u : Fin Config.NHPF) (h : HighPass) : (tr.setHpf u h).drp = tr.drp := rfl
@[simp] theorem setHpf_drate (tr : Track) (u : Fin Config.NHPF) (h : HighPass) : (tr.setHpf u h).drate = tr.drate := rfl
@[simp] theorem setHpf_dcnt (tr : Track) (u : Fin Config.NHPF) (h : HighPass) : (tr.setHpf u h).dcnt = tr.dcnt := rfl
@[simp] theorem setHpf_rbus (tr : Track) (u : Fin Config.NHPF) (h : HighPass) : (tr.setHpf u h).rbus = tr.rbus := rfl
@[simp] theorem setHpf_apidx (tr : Track) (u : Fin Config.NHPF) (h : HighPass) : (tr.setHpf u h).apidx = tr.apidx := rfl

/-! ### setApidx -/

@[simp] theorem setApidx_vol (tr : Track) (u : Fin Config.NSTAGE) (i : BitVec 10) : (tr.setApidx u i).vol = tr.vol := rfl
@[simp] theorem setApidx_pan (tr : Track) (u : Fin Config.NSTAGE) (i : BitVec 10) : (tr.setApidx u i).pan = tr.pan := rfl
@[simp] theorem setApidx_kind (tr : Track) (u : Fin Config.NSTAGE) (i : BitVec 10) : (tr.setApidx u i).kind = tr.kind := rfl
@[simp] theorem setApidx_root (tr : Track) (u : Fin Config.NSTAGE) (i : BitVec 10) : (tr.setApidx u i).root = tr.root := rfl
@[simp] theorem setApidx_dsend (tr : Track) (u : Fin Config.NSTAGE) (i : BitVec 10) : (tr.setApidx u i).dsend = tr.dsend := rfl
@[simp] theorem setApidx_rsend (tr : Track) (u : Fin Config.NSTAGE) (i : BitVec 10) : (tr.setApidx u i).rsend = tr.rsend := rfl
@[simp] theorem setApidx_glide (tr : Track) (u : Fin Config.NSTAGE) (i : BitVec 10) : (tr.setApidx u i).glide = tr.glide := rfl
@[simp] theorem setApidx_seqvol (tr : Track) (u : Fin Config.NSTAGE) (i : BitVec 10) : (tr.setApidx u i).seqvol = tr.seqvol := rfl
@[simp] theorem setApidx_bpm (tr : Track) (u : Fin Config.NSTAGE) (i : BitVec 10) : (tr.setApidx u i).bpm = tr.bpm := rfl
@[simp] theorem setApidx_sps (tr : Track) (u : Fin Config.NSTAGE) (i : BitVec 10) : (tr.setApidx u i).sps = tr.sps := rfl
@[simp] theorem setApidx_step (tr : Track) (u : Fin Config.NSTAGE) (i : BitVec 10) : (tr.setApidx u i).step = tr.step := rfl
@[simp] theorem setApidx_scnt (tr : Track) (u : Fin Config.NSTAGE) (i : BitVec 10) : (tr.setApidx u i).scnt = tr.scnt := rfl
@[simp] theorem setApidx_gate (tr : Track) (u : Fin Config.NSTAGE) (i : BitVec 10) : (tr.setApidx u i).gate = tr.gate := rfl
@[simp] theorem setApidx_amp (tr : Track) (u : Fin Config.NSTAGE) (i : BitVec 10) : (tr.setApidx u i).amp = tr.amp := rfl
@[simp] theorem setApidx_fcur (tr : Track) (u : Fin Config.NSTAGE) (i : BitVec 10) : (tr.setApidx u i).fcur = tr.fcur := rfl
@[simp] theorem setApidx_ftgt (tr : Track) (u : Fin Config.NSTAGE) (i : BitVec 10) : (tr.setApidx u i).ftgt = tr.ftgt := rfl
@[simp] theorem setApidx_ginc (tr : Track) (u : Fin Config.NSTAGE) (i : BitVec 10) : (tr.setApidx u i).ginc = tr.ginc := rfl
@[simp] theorem setApidx_gcnt (tr : Track) (u : Fin Config.NSTAGE) (i : BitVec 10) : (tr.setApidx u i).gcnt = tr.gcnt := rfl
@[simp] theorem setApidx_ofreq (tr : Track) (u : Fin Config.NSTAGE) (i : BitVec 10) : (tr.setApidx u i).ofreq = tr.ofreq := rfl
@[simp] theorem setApidx_oinc (tr : Track) (u : Fin Config.NSTAGE) (i : BitVec 10) : (tr.setApidx u i).oinc = tr.oinc := rfl
@[simp] theorem setApidx_ophase (tr : Track) (u : Fin Config.NSTAGE) (i : BitVec 10) : (tr.setApidx u i).ophase = tr.ophase := rfl
@[simp] theorem setApidx_owti (tr : Track) (u : Fin Config.NSTAGE) (i : BitVec 10) : (tr.setApidx u i).owti = tr.owti := rfl
@[simp] theorem setApidx_sbase (tr : Track) (u : Fin Config.NSTAGE) (i : BitVec 10) : (tr.setApidx u i).sbase = tr.sbase := rfl
@[simp] theorem setApidx_slen (tr : Track) (u : Fin Config.NSTAGE) (i : BitVec 10) : (tr.setApidx u i).slen = tr.slen := rfl
@[simp] theorem setApidx_spos (tr : Track) (u : Fin Config.NSTAGE) (i : BitVec 10) : (tr.setApidx u i).spos = tr.spos := rfl
@[simp] theorem setApidx_dlvl (tr : Track) (u : Fin Config.NSTAGE) (i : BitVec 10) : (tr.setApidx u i).dlvl = tr.dlvl := rfl
@[simp] theorem setApidx_dfb (tr : Track) (u : Fin Config.NSTAGE) (i : BitVec 10) : (tr.setApidx u i).dfb = tr.dfb := rfl
@[simp] theorem setApidx_dspr (tr : Track) (u : Fin Config.NSTAGE) (i : BitVec 10) : (tr.setApidx u i).dspr = tr.dspr := rfl
@[simp] theorem setApidx_dlag (tr : Track) (u : Fin Config.NSTAGE) (i : BitVec 10) : (tr.setApidx u i).dlag = tr.dlag := rfl
@[simp] theorem setApidx_dwp (tr : Track) (u : Fin Config.NSTAGE) (i : BitVec 10) : (tr.setApidx u i).dwp = tr.dwp := rfl
@[simp] theorem setApidx_drp (tr : Track) (u : Fin Config.NSTAGE) (i : BitVec 10) : (tr.setApidx u i).drp = tr.drp := rfl
@[simp] theorem setApidx_drate (tr : Track) (u : Fin Config.NSTAGE) (i : BitVec 10) : (tr.setApidx u i).drate = tr.drate := rfl
@[simp] theorem setApidx_dcnt (tr : Track) (u : Fin Config.NSTAGE) (i : BitVec 10) : (tr.setApidx u i).dcnt = tr.dcnt := rfl
@[simp] theorem setApidx_hpf (tr : Track) (u : Fin Config.NSTAGE) (i : BitVec 10) : (tr.setApidx u i).hpf = tr.hpf := rfl
@[simp] theorem setApidx_rbus (tr : Track) (u : Fin Config.NSTAGE) (i : BitVec 10) : (tr.setApidx u i).rbus = tr.rbus := rfl

/-! ## Fields an update writes -/

@[simp] theorem getX_setX_same (s : State) (r : Reg) (v : Word) : (s.setX r v).getX r = v := by simp [State.getX, State.setX]

theorem getX_setX_ne (s : State) {r q : Reg} (v : Word) (h : q ≠ r) : (s.setX r v).getX q = s.getX q := by
  have : r.toNat ≠ q.toNat := fun e => h (BitVec.eq_of_toNat_eq e.symm)
  simp [State.getX, State.setX, Vector.getElem_set_ne, this]

/-- Reading a register after writing one. -/
theorem getX_setX (s : State) (r q : Reg) (v : Word) : (s.setX r v).getX q = if q = r then v else s.getX q := by
  split
  · subst q; simp
  · exact getX_setX_ne s v ‹_›

@[simp] theorem track_setTrack_same (s : State) (k : Fin Config.NTRK) (tr : Track) : (s.setTrack k tr).track k = tr := by
  simp [State.track, State.setTrack]

theorem track_setTrack_ne (s : State) {k j : Fin Config.NTRK} (tr : Track) (h : j ≠ k) : (s.setTrack k tr).track j = s.track j := by
  have : k.val ≠ j.val := fun e => h (Fin.ext e.symm)
  simp [State.track, State.setTrack, Vector.getElem_set_ne, this]

/-- Reading a track after writing one. -/
theorem track_setTrack (s : State) (k j : Fin Config.NTRK) (tr : Track) :
    (s.setTrack k tr).track j = if j = k then tr else s.track j := by
  split
  · subst j; simp
  · exact track_setTrack_ne s tr ‹_›

/-- Of two writes to a track the later one counts. -/
@[simp] theorem setTrack_setTrack (s : State) (k : Fin Config.NTRK) (tr tr' : Track) :
    (s.setTrack k tr).setTrack k tr' = s.setTrack k tr' := by
  simp [State.setTrack]

/-- Writing a track back changes nothing. -/
@[simp] theorem setTrack_track (s : State) (k : Fin Config.NTRK) : s.setTrack k (s.track k) = s := by
  simp [State.setTrack, State.track]

/-- Writing a register back changes nothing. -/
@[simp] theorem setX_getX (s : State) (r : Reg) : s.setX r (s.getX r) = s := by
  simp [State.setX, State.getX]

@[simp] theorem setHpf_same (tr : Track) (u : Fin Config.NHPF) (h : HighPass) : (tr.setHpf u h).hpf[u.val] = h := by
  simp [Track.setHpf]

theorem setHpf_ne (tr : Track) {u v : Fin Config.NHPF} (h : HighPass) (e : v ≠ u) : (tr.setHpf u h).hpf[v.val] = tr.hpf[v.val] := by
  have : u.val ≠ v.val := fun e' => e (Fin.ext e'.symm)
  simp [Track.setHpf, Vector.getElem_set_ne, this]

@[simp] theorem setApidx_same (tr : Track) (u : Fin Config.NSTAGE) (i : BitVec 10) : (tr.setApidx u i).apidx[u.val] = i := by
  simp [Track.setApidx]

theorem setApidx_ne (tr : Track) {u v : Fin Config.NSTAGE} (i : BitVec 10) (e : v ≠ u) :
    (tr.setApidx u i).apidx[v.val] = tr.apidx[v.val] := by
  have : u.val ≠ v.val := fun e' => e (Fin.ext e'.symm)
  simp [Track.setApidx, Vector.getElem_set_ne, this]

@[simp] theorem flag_err (s : State) (c : Condition) : (s.flag c).err = s.err ||| c.bit := rfl

@[simp] theorem flagIf_err (s : State) (b : Bool) (c : Condition) : (s.flagIf b c).err = if b then s.err ||| c.bit else s.err := by
  cases b <;> rfl

@[simp] theorem raise_err (s : State) (c : Condition) (w : Word) : (s.raise c w).err = s.err ||| c.bit := rfl

@[simp] theorem raise_errinfo (s : State) (c : Condition) (w : Word) : (s.raise c w).errinfo = w := rfl

@[simp] theorem ackErr_err (s : State) (v : Word) : (s.ackErr v).err = s.err &&& ~~~(v.extractLsb' 0 11) := rfl

@[simp] theorem setSlot_rpos (s : State) (q : Fin Config.NSLOT) : (s.setSlot q).rpos = { s.rpos with slot := q } := rfl

@[simp] theorem queueCommand_turns (s : State) (w : Word) : (s.queueCommand w).inputs.turns = .command w :: s.inputs.turns := rfl

@[simp] theorem dropTurn_turns (s : State) : s.dropTurn.inputs.turns = s.inputs.turns.tail := rfl

/-- Taking back a queued command gives the state before it. -/
@[simp] theorem dropTurn_queueCommand (s : State) (w : Word) : (s.queueCommand w).dropTurn = s := rfl

@[simp] theorem setWordAt_mem (s : State) (sp : Space) (a : Nat) (v : Word) :
    (s.setWordAt sp a v).mem = s.mem.setWord (sp.cell a) v := rfl

@[simp] theorem setByteAt_mem (s : State) (sp : Space) (a : Nat) (v : Byte) :
    (s.setByteAt sp a v).mem = s.mem.setByte (sp.cell a) v := rfl

@[simp] theorem zeroWords_mem (s : State) (sp : Space) (a n : Nat) :
    (s.zeroWords sp a n).mem = s.mem.restore (sp.cell a) (4 * n) := rfl

end Sys2Proof.Laws
end

