-- ==== Sys2Proof/Laws/Ops.lean ====
section
/-! SUPPORT. For each shared operation, what it can do: the checks of R263, the elements, and the unit operations that can
stop. -/

namespace Sys2Proof.Laws

open Sys2Proof Sys2Proof.Machine

/-! ## Checks -/

@[simp] theorem trackField_toNat (k : Fin Config.NTRK) : (trackField k).toNat = k.val := by
  have := k.isLt
  simp only [Config.NTRK] at this
  simp only [trackField, BitVec.toNat_ofNat]; omega

@[simp] theorem stageField_toNat (u : Fin Config.NSTAGE) : (stageField u).toNat = u.val := by
  have := u.isLt
  simp only [Config.NSTAGE, Config.NAP] at this
  simp only [stageField, BitVec.toNat_ofNat]; omega

@[simp] theorem unitField_toNat (u : Fin Config.NHPF) : (unitField u).toNat = u.val := by
  have := u.isLt
  simp only [Config.NHPF] at this
  simp only [unitField, BitVec.toNat_ofNat]; omega

/-- A track field that names a track runs the command on it. -/
@[simp] theorem onTrack_field (i : Instr) (k : Fin Config.NTRK) (s : State) (run : Fin Config.NTRK → Result) :
    onTrack i (trackField k) s run = run k := by
  have h : (trackField k).toNat < Config.NTRK := by rw [trackField_toNat]; exact k.isLt
  unfold onTrack
  rw [dif_pos h]
  exact congrArg run (Fin.ext (trackField_toNat k))

/-- Any other track field is BADIDX. -/
theorem onTrack_missing (i : Instr) {t : BitVec 4} (s : State) (run : Fin Config.NTRK → Result) (h : 4 ≤ t.toNat) :
    onTrack i t s run = reject .badidx i s := by
  unfold onTrack
  rw [dif_neg (Nat.not_lt.mpr h)]

@[simp] theorem onStage_field (i : Instr) (u : Fin Config.NSTAGE) (s : State) (run : Fin Config.NSTAGE → Result) :
    onStage i (stageField u) s run = run u := by
  have h : (stageField u).toNat < Config.NSTAGE := by rw [stageField_toNat]; exact u.isLt
  unfold onStage
  rw [dif_pos h]
  exact congrArg run (Fin.ext (stageField_toNat u))

theorem onStage_missing (i : Instr) {u : BitVec 4} (s : State) (run : Fin Config.NSTAGE → Result) (h : 8 ≤ u.toNat) :
    onStage i u s run = reject .badidx i s := by
  unfold onStage
  rw [dif_neg (show ¬u.toNat < Config.NSTAGE from Nat.not_lt.mpr h)]

@[simp] theorem onHighPass_field (i : Instr) (u : Fin Config.NHPF) (s : State) (run : Fin Config.NHPF → Result) :
    onHighPass i (unitField u) s run = run u := by
  have h : (unitField u).toNat < Config.NHPF := by rw [unitField_toNat]; exact u.isLt
  unfold onHighPass
  rw [dif_pos h]
  exact congrArg run (Fin.ext (unitField_toNat u))

theorem onHighPass_missing (i : Instr) {u : BitVec 4} (s : State) (run : Fin Config.NHPF → Result) (h : 3 ≤ u.toNat) :
    onHighPass i u s run = reject .badidx i s := by
  unfold onHighPass
  rw [dif_neg (Nat.not_lt.mpr h)]

@[simp] theorem onSpace_of_some (i : Instr) {n : BitVec 4} {sp : Space} (s : State) (run : Space → Result)
    (h : spaceOf n = some sp) : onSpace i n s run = run sp := by
  unfold onSpace; rw [h]

theorem onSpace_of_none (i : Instr) {n : BitVec 4} (s : State) (run : Space → Result) (h : spaceOf n = none) :
    onSpace i n s run = reject .badidx i s := by
  unfold onSpace; rw [h]

/-- A DIRECT command runs in DIRECT mode. -/
theorem directOnly_of_direct (i : Instr) {s : State} (run : Result) (h : s.status.active = false) : directOnly i s run = run := by
  unfold directOnly; rw [h]; rfl

/-- A DIRECT command is BUSY in ACTIVE mode. -/
theorem directOnly_of_active (i : Instr) {s : State} (run : Result) (h : s.status.active = true) :
    directOnly i s run = reject .busy i s := by
  unfold directOnly; rw [h]; rfl

/-- The space a number below 11 names has that number. -/
theorem spaceOf_eq_some {n : BitVec 4} {sp : Space} : spaceOf n = some sp ↔ n.toNat = sp.index := by
  revert n sp
  intro n sp
  cases sp <;> revert n <;> decide

theorem spaceOf_eq_none {n : BitVec 4} : spaceOf n = none ↔ 11 ≤ n.toNat := by
  revert n; decide

/-! ## Elements -/

@[simp] theorem wordAt_setWordAt_same (s : State) (sp : Space) (a : Nat) (v : Word) : (s.setWordAt sp a v).wordAt sp a = v := by
  simp [State.wordAt]

theorem wordAt_setWordAt_ne (s : State) {sp sp' : Space} {a b : Nat} (v : Word) (ha : a < 2 ^ 32) (hb : b < 2 ^ 32)
    (hw : sp.width = 4) (hw' : sp'.width = 4) (h : sp' ≠ sp ∨ b ≠ a) : (s.setWordAt sp a v).wordAt sp' b = s.wordAt sp' b := by
  unfold State.wordAt
  rw [setWordAt_mem]
  apply word_setWord_ne
  by_contra hcon
  have hcon : sp.cell a < sp'.cell b + 4 ∧ sp'.cell b < sp.cell a + 4 := by omega
  rcases Nat.le_total (sp.cell a) (sp'.cell b) with hle | hle
  · have := cell_inj (sp := sp) (sp' := sp') (j := sp'.cell b - sp.cell a) (j' := 0) ha hb (by omega) (by omega) (by omega)
    rcases h with h | h
    · exact h this.1.symm
    · exact h this.2.1.symm
  · have := cell_inj (sp := sp) (sp' := sp') (j := 0) (j' := sp.cell a - sp'.cell b) ha hb (by omega) (by omega) (by omega)
    rcases h with h | h
    · exact h this.1.symm
    · exact h this.2.1.symm

@[simp] theorem byteAt_setByteAt_same (s : State) (sp : Space) (a : Nat) (v : Byte) : (s.setByteAt sp a v).byteAt sp a = v := by
  simp [State.byteAt]

theorem byteAt_setByteAt_ne (s : State) {sp sp' : Space} {a b : Nat} (v : Byte) (ha : a < 2 ^ 32) (hb : b < 2 ^ 32)
    (h : sp' ≠ sp ∨ b ≠ a) : (s.setByteAt sp a v).byteAt sp' b = s.byteAt sp' b := by
  unfold State.byteAt
  rw [setByteAt_mem, byte_setByte_ne]
  intro e
  have := cell_inj (j := 0) (j' := 0) hb ha (width_pos sp') (width_pos sp) (by simpa using e)
  rcases h with h | h
  · exact h this.1
  · exact h this.2.1

/-- A word element that was put back to its reset contents in DL, DR or AP is +0.0. -/
theorem wordAt_zeroWords_inside (s : State) {sp : Space} {a n b : Nat} (hsp : sp = .dl ∨ sp = .dr ∨ sp = .ap) (hb : b < 2 ^ 32)
    (hab : a ≤ b) (hbn : b < a + n) : (s.zeroWords sp a n).wordAt sp b = 0 := by
  have hw : sp.width = 4 := by rcases hsp with rfl | rfl | rfl <;> rfl
  have hin : ∀ j, j < 4 → (s.zeroWords sp a n).mem.byte (sp.cell b + j) = 0 := by
    intro j hj
    rw [zeroWords_mem, byte_restore, if_pos]
    · apply unlisted_cell hb (by omega)
      · rcases hsp with rfl | rfl | rfl <;> decide
      · rcases hsp with rfl | rfl | rfl <;> decide
    · unfold Space.cell; rw [hw]; omega
  unfold State.wordAt Memory.word
  rw [hin 3 (by omega), hin 2 (by omega), hin 1 (by omega)]
  have h0 := hin 0 (by omega)
  rw [Nat.add_zero] at h0
  rw [h0]
  decide

theorem revlen_le (u : Fin Config.NSTAGE) : Config.REVLEN u ≤ 1024 := by revert u; decide

theorem revlen_pos (u : Fin Config.NSTAGE) : 0 < Config.REVLEN u := by revert u; decide

/-- The element addresses of the model are those R60 lays out. -/
theorem inRange_iff (sp : Space) (a : Nat) : sp.inRange a = true ↔ ElementOf sp a := by
  cases sp with
  | wt =>
    simp only [Space.inRange, ElementOf, decide_eq_true_eq, Config.WTSTRIDE, Config.NWT, Config.WTPAD, Config.WTLEN]
    exact ⟨fun h => ⟨a / 4096, a % 4096, by omega, by omega, by omega⟩, fun ⟨n, k, hn, hk, e⟩ => by omega⟩
  | ft => simp [Space.inRange, ElementOf]
  | sm => simp [Space.inRange, ElementOf]
  | pn | pp | pa | ps =>
    simp only [Space.inRange, ElementOf, decide_eq_true_eq, Config.NTRK]
    exact ⟨fun h => ⟨a / 16, a % 16, by omega, by omega, by omega⟩, fun ⟨n, k, hn, hk, e⟩ => by omega⟩
  | dl | dr =>
    simp only [Space.inRange, ElementOf, decide_eq_true_eq, Config.NTRK, Config.CAP]
    exact ⟨fun h => ⟨a / 65536, a % 65536, by omega, by omega, by omega⟩, fun ⟨n, k, hn, hk, e⟩ => by omega⟩
  | ap =>
    simp only [Space.inRange, ElementOf, decide_eq_true_eq, Config.NTRK]
    constructor
    · intro h
      refine ⟨a / 8192, Fin.ofNat Config.NSTAGE (a / 1024 % 8), a % 1024, h.1, h.2, ?_⟩
      simp only [Fin.ofNat, Config.NSTAGE, Config.NAP]; omega
    · rintro ⟨t, u, i, ht, hi, e⟩
      have hu := u.isLt
      simp only [Config.NSTAGE, Config.NAP] at hu
      have hi' : i < 1024 := lt_of_lt_of_le hi (revlen_le u)
      have eu : Fin.ofNat Config.NSTAGE (a / 1024 % 8) = u := by
        apply Fin.ext; simp only [Fin.ofNat, Config.NSTAGE, Config.NAP]; omega
      rw [eu]
      refine ⟨by omega, ?_⟩
      have : a % 1024 = i := by omega
      rw [this]; exact hi
  | pb =>
    simp only [Space.inRange, ElementOf, decide_eq_true_eq, Config.NBUF, Config.BUFLEN]
    exact ⟨fun h => ⟨a / 1024, a % 1024, by omega, by omega, by omega⟩, fun ⟨n, k, hn, hk, e⟩ => by omega⟩

/-! ## Unit operations that can stop -/

/-- All an OSC.TICK that answers can do: it reads four samples of the selected table and moves the phase. -/
theorem oscTick_ok {k : Fin Config.NTRK} {s u : State} {y : F32} (h : oscTick k s = .ok (y, u)) :
    ∃ i, tableIndex (fmul (nextPhase (s.track k).ophase (s.track k).oinc) f2048) = some i ∧
      y = tableSample s (s.track k).owti i (fsub (fmul (nextPhase (s.track k).ophase (s.track k).oinc) f2048) (i2f i)) ∧
      u = s.setTrack k { s.track k with ophase := nextPhase (s.track k).ophase (s.track k).oinc } := by
  unfold oscTick at h
  dsimp only at h
  split at h
  · injection h with h
    injection h with h1 h2
    exact ⟨_, ‹_›, h1.symm, h2.symm⟩
  · cases h

/-- All an SMP.TICK that answers can do: the next sample, or silence. -/
theorem smpTick_ok {k : Fin Config.NTRK} {s u : State} {y : F32} (h : smpTick k s = .ok (y, u)) :
    ((s.track k).spos.toNat < (s.track k).slen.toNat ∧ y = s.wordAt .sm ((s.track k).sbase.toNat + (s.track k).spos.toNat) ∧
      u = s.setTrack k { s.track k with spos := (s.track k).spos + 1 }) ∨
    ((s.track k).slen.toNat ≤ (s.track k).spos.toNat ∧ y = 0 ∧ u = s) := by
  unfold smpTick at h
  dsimp only at h
  split at h
  · split at h
    · injection h with h
      injection h with h1 h2
      exact .inl ⟨‹_›, h1.symm, h2.symm⟩
    · cases h
  · injection h with h
    injection h with h1 h2
    exact .inr ⟨Nat.le_of_not_lt ‹_›, h1.symm, h2.symm⟩

/-- All an APF.PROC that answers can do: one slot of one stage and the stage's index. -/
theorem apfProc_ok {k : Fin Config.NTRK} {v : Fin Config.NSTAGE} {x y : F32} {s u : State} (h : apfProc k v x s = .ok (y, u)) :
    (s.track k).apidx[v.val].toNat < Config.REVLEN v ∧
    y = fsub (s.wordAt .ap (stageAddr k v (s.track k).apidx[v.val].toNat)) x ∧
    u = (s.setWordAt .ap (stageAddr k v (s.track k).apidx[v.val].toNat)
          (fadd x (fmul (s.wordAt .ap (stageAddr k v (s.track k).apidx[v.val].toNat)) Config.REVFB))).setTrack k
        ((s.track k).setApidx v (BitVec.ofNat 10 (((s.track k).apidx[v.val].toNat + 1) % Config.REVLEN v))) := by
  unfold apfProc at h
  dsimp only at h
  split at h
  · injection h with h
    injection h with h1 h2
    exact ⟨‹_›, h1.symm, h2.symm⟩
  · cases h

/-- A legal stage answers. -/
theorem apfProc_of_legal {k : Fin Config.NTRK} {s : State} (h : (s.track k).ReverbLegal) (v : Fin Config.NSTAGE) (x : F32) :
    ∃ y u, apfProc k v x s = .ok (y, u) := by
  unfold apfProc
  dsimp only
  rw [if_pos (h v)]
  exact ⟨_, _, rfl⟩

/-- A voice tick that answers: the glide's tick, the source's tick, the filter's tick. -/
theorem voxTick_ok {k : Fin Config.NTRK} {s u : State} {v : Voice} (h : voxTick k s = .ok (v, u)) :
    ∃ raw s1, sourceTick k (glideTick k s) = .ok (raw, s1) ∧ u = (hpfProc k 2 raw s1).2 ∧
      v = voiceOut (u.track k) (hpfProc k 2 raw s1).1 := by
  unfold voxTick at h
  split at h
  · cases h
  · injection h with h
    injection h with h1 h2
    exact ⟨_, _, ‹_›, h2.symm, by rw [← h1, ← h2]; rfl⟩

/-- A reverb tick that answers: the bus is taken, then both chains run. -/
theorem revProc_ok {k : Fin Config.NTRK} {s u : State} {y : F32 × F32} (h : revProc k s = .ok (y, u)) :
    ∃ s1, apfChain k leftChain (s.track k).rbus (s.setTrack k { s.track k with rbus := 0 }) = .ok (y.1, s1) ∧
      apfChain k rightChain (s.track k).rbus s1 = .ok (y.2, u) := by
  unfold revProc at h
  dsimp only at h
  split at h
  · cases h
  · split at h
    · cases h
    · injection h with h
      injection h with h1 h2
      subst h1; subst h2
      exact ⟨_, ‹_›, ‹_›⟩

/-- A track's chain that answers: voice, delay, reverb, then the accumulation. -/
theorem mixTrk_ok {k : Fin Config.NTRK} {s u : State} (h : mixTrk k s = .ok u) :
    ∃ v s1 r s3, voxTick k s = .ok (v, s1) ∧
      revProc k (revIn k v.reverbSend (dlyOut k (dlyIn k v.delaySend s1)).2) = .ok (r, s3) ∧
      u = accumulate k (sumEffects v.dryL (dlyOut k (dlyIn k v.delaySend s1)).1.1 r.1)
        (sumEffects v.dryR (dlyOut k (dlyIn k v.delaySend s1)).1.2 r.2) s3 := by
  unfold mixTrk at h
  split at h
  · cases h
  · dsimp only at h
    split at h
    · cases h
    · injection h with h
      exact ⟨_, _, _, _, ‹_›, ‹_›, h.symm⟩

end Sys2Proof.Laws
end

