-- ==== Sys2Proof/Laws/PerInstr.lean ====
section
/-! SUPPORT. The statements made of every constructor of `Instr`: its word stands in the opcode table's row of its mnemonic. -/

namespace Sys2Proof.Laws

open Sys2Proof Sys2Proof.Machine

/-- The encoding of a command satisfies `word &&& mask = match` of its row (R94). -/
def EncodesInTable.Statement (i : Instr) : Prop := encode i &&& (rowOf i).mask = (rowOf i).pattern

/-- It is enough to compare field by field. -/
theorem encodesInTable_of_fields {i : Instr} (h : fieldsOf (encode i &&& (rowOf i).mask) = fieldsOf (rowOf i).pattern) :
    EncodesInTable.Statement i := fieldsOf_inj h

/-- The masked word's fields. -/
theorem masked_fields (i : Instr) : fieldsOf (encode i &&& (rowOf i).mask) =
    ⟨(encodeFields i).op &&& (fieldsOf (rowOf i).mask).op, (encodeFields i).t &&& (fieldsOf (rowOf i).mask).t,
     (encodeFields i).u &&& (fieldsOf (rowOf i).mask).u, (encodeFields i).rd &&& (fieldsOf (rowOf i).mask).rd,
     (encodeFields i).rs &&& (fieldsOf (rowOf i).mask).rs, (encodeFields i).rt &&& (fieldsOf (rowOf i).mask).rt,
     (encodeFields i).fn &&& (fieldsOf (rowOf i).mask).fn⟩ := by
  rw [fieldsOf_and]; unfold encode; rw [fieldsOf_wordOf]


theorem EncodesInTable.nop : EncodesInTable.Statement (.nop) := by
  apply encodesInTable_of_fields
  have hm : fieldsOf (0xFFFFFFFF : Word) = ⟨0xFF, 15, 15, 15, 15, 15, 15⟩ := by decide
  have hp : fieldsOf (0x00000000 : Word) = ⟨0x00, 0, 0, 0, 0, 0, 0⟩ := by decide
  rw [masked_fields]
  dsimp only [rowOf]
  rw [hm, hp]
  simp [encodeFields, f0Fields]

theorem EncodesInTable.lil (rd : Reg) (imm : BitVec 16) : EncodesInTable.Statement (.lil rd imm) := by
  apply encodesInTable_of_fields
  have hm : fieldsOf (0xFFF00000 : Word) = ⟨0xFF, 15, 0, 0, 0, 0, 0⟩ := by decide
  have hp : fieldsOf (0x01000000 : Word) = ⟨0x01, 0, 0, 0, 0, 0, 0⟩ := by decide
  rw [masked_fields]
  dsimp only [rowOf]
  rw [hm, hp]
  simp [encodeFields, fiFields]

theorem EncodesInTable.lih (rd : Reg) (imm : BitVec 16) : EncodesInTable.Statement (.lih rd imm) := by
  apply encodesInTable_of_fields
  have hm : fieldsOf (0xFFF00000 : Word) = ⟨0xFF, 15, 0, 0, 0, 0, 0⟩ := by decide
  have hp : fieldsOf (0x02000000 : Word) = ⟨0x02, 0, 0, 0, 0, 0, 0⟩ := by decide
  rw [masked_fields]
  dsimp only [rowOf]
  rw [hm, hp]
  simp [encodeFields, fiFields]

theorem EncodesInTable.csrr (rd : Reg) (t : BitVec 4) (csr : BitVec 8) : EncodesInTable.Statement (.csrr rd t csr) := by
  apply encodesInTable_of_fields
  have hm : fieldsOf (0xFF00FF00 : Word) = ⟨0xFF, 0, 0, 15, 15, 0, 0⟩ := by decide
  have hp : fieldsOf (0x03000000 : Word) = ⟨0x03, 0, 0, 0, 0, 0, 0⟩ := by decide
  rw [masked_fields]
  dsimp only [rowOf]
  rw [hm, hp]
  simp [encodeFields, fiFields]
  revert csr; decide

theorem EncodesInTable.csrw (t : BitVec 4) (csr : BitVec 8) (rs : Reg) : EncodesInTable.Statement (.csrw t csr rs) := by
  apply encodesInTable_of_fields
  have hm : fieldsOf (0xFF00FF00 : Word) = ⟨0xFF, 0, 0, 15, 15, 0, 0⟩ := by decide
  have hp : fieldsOf (0x04000000 : Word) = ⟨0x04, 0, 0, 0, 0, 0, 0⟩ := by decide
  rw [masked_fields]
  dsimp only [rowOf]
  rw [hm, hp]
  simp [encodeFields, fiFields]
  revert csr; decide

theorem EncodesInTable.ldm (rd : Reg) (space : BitVec 4) (ra : Reg) (post : Bool) : EncodesInTable.Statement (.ldm rd space ra post) := by
  apply encodesInTable_of_fields
  have hm : fieldsOf (0xFFF000FE : Word) = ⟨0xFF, 15, 0, 0, 0, 15, 14⟩ := by decide
  have hp : fieldsOf (0x05000000 : Word) = ⟨0x05, 0, 0, 0, 0, 0, 0⟩ := by decide
  rw [masked_fields]
  dsimp only [rowOf]
  rw [hm, hp]
  cases post <;> simp [encodeFields, postField]

theorem EncodesInTable.stm (space : BitVec 4) (ra : Reg) (post : Bool) (rv : Reg) : EncodesInTable.Statement (.stm space ra post rv) := by
  apply encodesInTable_of_fields
  have hm : fieldsOf (0xFFF0F00E : Word) = ⟨0xFF, 15, 0, 15, 0, 0, 14⟩ := by decide
  have hp : fieldsOf (0x06000000 : Word) = ⟨0x06, 0, 0, 0, 0, 0, 0⟩ := by decide
  rw [masked_fields]
  dsimp only [rowOf]
  rw [hm, hp]
  cases post <;> simp [encodeFields, postField]

theorem EncodesInTable.cvtS16 (rd : Reg) (rs : Reg) : EncodesInTable.Statement (.cvtS16 rd rs) := by
  apply encodesInTable_of_fields
  have hm : fieldsOf (0xFFFF00FF : Word) = ⟨0xFF, 15, 15, 0, 0, 15, 15⟩ := by decide
  have hp : fieldsOf (0x07000000 : Word) = ⟨0x07, 0, 0, 0, 0, 0, 0⟩ := by decide
  rw [masked_fields]
  dsimp only [rowOf]
  rw [hm, hp]
  simp [encodeFields]

theorem EncodesInTable.engStart : EncodesInTable.Statement (.engStart) := by
  apply encodesInTable_of_fields
  have hm : fieldsOf (0xFFFFFFFF : Word) = ⟨0xFF, 15, 15, 15, 15, 15, 15⟩ := by decide
  have hp : fieldsOf (0x08000000 : Word) = ⟨0x08, 0, 0, 0, 0, 0, 0⟩ := by decide
  rw [masked_fields]
  dsimp only [rowOf]
  rw [hm, hp]
  simp [encodeFields, f0Fields]

theorem EncodesInTable.engStop : EncodesInTable.Statement (.engStop) := by
  apply encodesInTable_of_fields
  have hm : fieldsOf (0xFFFFFFFF : Word) = ⟨0xFF, 15, 15, 15, 15, 15, 15⟩ := by decide
  have hp : fieldsOf (0x09000000 : Word) = ⟨0x09, 0, 0, 0, 0, 0, 0⟩ := by decide
  rw [masked_fields]
  dsimp only [rowOf]
  rw [hm, hp]
  simp [encodeFields, f0Fields]

theorem EncodesInTable.engPause : EncodesInTable.Statement (.engPause) := by
  apply encodesInTable_of_fields
  have hm : fieldsOf (0xFFFFFFFF : Word) = ⟨0xFF, 15, 15, 15, 15, 15, 15⟩ := by decide
  have hp : fieldsOf (0x0A000000 : Word) = ⟨0x0A, 0, 0, 0, 0, 0, 0⟩ := by decide
  rw [masked_fields]
  dsimp only [rowOf]
  rw [hm, hp]
  simp [encodeFields, f0Fields]

theorem EncodesInTable.engResume : EncodesInTable.Statement (.engResume) := by
  apply encodesInTable_of_fields
  have hm : fieldsOf (0xFFFFFFFF : Word) = ⟨0xFF, 15, 15, 15, 15, 15, 15⟩ := by decide
  have hp : fieldsOf (0x0B000000 : Word) = ⟨0x0B, 0, 0, 0, 0, 0, 0⟩ := by decide
  rw [masked_fields]
  dsimp only [rowOf]
  rw [hm, hp]
  simp [encodeFields, f0Fields]

theorem EncodesInTable.oscSetf (t : BitVec 4) (rs : Reg) : EncodesInTable.Statement (.oscSetf t rs) := by
  apply encodesInTable_of_fields
  have hm : fieldsOf (0xFF0FF0FF : Word) = ⟨0xFF, 0, 15, 15, 0, 15, 15⟩ := by decide
  have hp : fieldsOf (0x10000000 : Word) = ⟨0x10, 0, 0, 0, 0, 0, 0⟩ := by decide
  rw [masked_fields]
  dsimp only [rowOf]
  rw [hm, hp]
  simp [encodeFields]

theorem EncodesInTable.oscTick (rd : Reg) (t : BitVec 4) : EncodesInTable.Statement (.oscTick rd t) := by
  apply encodesInTable_of_fields
  have hm : fieldsOf (0xFF0F0FFF : Word) = ⟨0xFF, 0, 15, 0, 15, 15, 15⟩ := by decide
  have hp : fieldsOf (0x11000000 : Word) = ⟨0x11, 0, 0, 0, 0, 0, 0⟩ := by decide
  rw [masked_fields]
  dsimp only [rowOf]
  rw [hm, hp]
  simp [encodeFields]

theorem EncodesInTable.smpSets (t : BitVec 4) (rb : Reg) (rl : Reg) : EncodesInTable.Statement (.smpSets t rb rl) := by
  apply encodesInTable_of_fields
  have hm : fieldsOf (0xFF0FF00F : Word) = ⟨0xFF, 0, 15, 15, 0, 0, 15⟩ := by decide
  have hp : fieldsOf (0x12000000 : Word) = ⟨0x12, 0, 0, 0, 0, 0, 0⟩ := by decide
  rw [masked_fields]
  dsimp only [rowOf]
  rw [hm, hp]
  simp [encodeFields]

theorem EncodesInTable.smpTrig (t : BitVec 4) : EncodesInTable.Statement (.smpTrig t) := by
  apply encodesInTable_of_fields
  have hm : fieldsOf (0xFF0FFFFF : Word) = ⟨0xFF, 0, 15, 15, 15, 15, 15⟩ := by decide
  have hp : fieldsOf (0x13000000 : Word) = ⟨0x13, 0, 0, 0, 0, 0, 0⟩ := by decide
  rw [masked_fields]
  dsimp only [rowOf]
  rw [hm, hp]
  simp [encodeFields]

theorem EncodesInTable.smpTick (rd : Reg) (t : BitVec 4) : EncodesInTable.Statement (.smpTick rd t) := by
  apply encodesInTable_of_fields
  have hm : fieldsOf (0xFF0F0FFF : Word) = ⟨0xFF, 0, 15, 0, 15, 15, 15⟩ := by decide
  have hp : fieldsOf (0x14000000 : Word) = ⟨0x14, 0, 0, 0, 0, 0, 0⟩ := by decide
  rw [masked_fields]
  dsimp only [rowOf]
  rw [hm, hp]
  simp [encodeFields]

theorem EncodesInTable.wtSeal (n : BitVec 7) : EncodesInTable.Statement (.wtSeal n) := by
  apply encodesInTable_of_fields
  have hm : fieldsOf (0xFFFFFF80 : Word) = ⟨0xFF, 15, 15, 15, 15, 8, 0⟩ := by decide
  have hp : fieldsOf (0x15000000 : Word) = ⟨0x15, 0, 0, 0, 0, 0, 0⟩ := by decide
  rw [masked_fields]
  dsimp only [rowOf]
  rw [hm, hp]
  simp [encodeFields, fiFields]
  revert n; decide

theorem EncodesInTable.apfProc (rd : Reg) (t : BitVec 4) (u : BitVec 4) (rs : Reg) : EncodesInTable.Statement (.apfProc rd t u rs) := by
  apply encodesInTable_of_fields
  have hm : fieldsOf (0xFF0000FF : Word) = ⟨0xFF, 0, 0, 0, 0, 15, 15⟩ := by decide
  have hp : fieldsOf (0x20000000 : Word) = ⟨0x20, 0, 0, 0, 0, 0, 0⟩ := by decide
  rw [masked_fields]
  dsimp only [rowOf]
  rw [hm, hp]
  simp [encodeFields]

theorem EncodesInTable.apfMute (t : BitVec 4) (u : BitVec 4) : EncodesInTable.Statement (.apfMute t u) := by
  apply encodesInTable_of_fields
  have hm : fieldsOf (0xFF00FFFF : Word) = ⟨0xFF, 0, 0, 15, 15, 15, 15⟩ := by decide
  have hp : fieldsOf (0x21000000 : Word) = ⟨0x21, 0, 0, 0, 0, 0, 0⟩ := by decide
  rw [masked_fields]
  dsimp only [rowOf]
  rw [hm, hp]
  simp [encodeFields]

theorem EncodesInTable.hpfProc (rd : Reg) (t : BitVec 4) (u : BitVec 4) (rs : Reg) : EncodesInTable.Statement (.hpfProc rd t u rs) := by
  apply encodesInTable_of_fields
  have hm : fieldsOf (0xFF0000FF : Word) = ⟨0xFF, 0, 0, 0, 0, 15, 15⟩ := by decide
  have hp : fieldsOf (0x22000000 : Word) = ⟨0x22, 0, 0, 0, 0, 0, 0⟩ := by decide
  rw [masked_fields]
  dsimp only [rowOf]
  rw [hm, hp]
  simp [encodeFields]

theorem EncodesInTable.hpfSetc (t : BitVec 4) (u : BitVec 4) (rs : Reg) : EncodesInTable.Statement (.hpfSetc t u rs) := by
  apply encodesInTable_of_fields
  have hm : fieldsOf (0xFF00F0FF : Word) = ⟨0xFF, 0, 0, 15, 0, 15, 15⟩ := by decide
  have hp : fieldsOf (0x23000000 : Word) = ⟨0x23, 0, 0, 0, 0, 0, 0⟩ := by decide
  rw [masked_fields]
  dsimp only [rowOf]
  rw [hm, hp]
  simp [encodeFields]

theorem EncodesInTable.dlyIn (t : BitVec 4) (rs : Reg) : EncodesInTable.Statement (.dlyIn t rs) := by
  apply encodesInTable_of_fields
  have hm : fieldsOf (0xFF0FF0FF : Word) = ⟨0xFF, 0, 15, 15, 0, 15, 15⟩ := by decide
  have hp : fieldsOf (0x30000000 : Word) = ⟨0x30, 0, 0, 0, 0, 0, 0⟩ := by decide
  rw [masked_fields]
  dsimp only [rowOf]
  rw [hm, hp]
  simp [encodeFields]

theorem EncodesInTable.dlyOut (rd : Reg) (t : BitVec 4) : EncodesInTable.Statement (.dlyOut rd t) := by
  apply encodesInTable_of_fields
  have hm : fieldsOf (0xFF0F0FFF : Word) = ⟨0xFF, 0, 15, 0, 15, 15, 15⟩ := by decide
  have hp : fieldsOf (0x31000000 : Word) = ⟨0x31, 0, 0, 0, 0, 0, 0⟩ := by decide
  rw [masked_fields]
  dsimp only [rowOf]
  rw [hm, hp]
  simp [encodeFields]

theorem EncodesInTable.dlySett (t : BitVec 4) (rs : Reg) : EncodesInTable.Statement (.dlySett t rs) := by
  apply encodesInTable_of_fields
  have hm : fieldsOf (0xFF0FF0FF : Word) = ⟨0xFF, 0, 15, 15, 0, 15, 15⟩ := by decide
  have hp : fieldsOf (0x32000000 : Word) = ⟨0x32, 0, 0, 0, 0, 0, 0⟩ := by decide
  rw [masked_fields]
  dsimp only [rowOf]
  rw [hm, hp]
  simp [encodeFields]

theorem EncodesInTable.revIn (t : BitVec 4) (rs : Reg) : EncodesInTable.Statement (.revIn t rs) := by
  apply encodesInTable_of_fields
  have hm : fieldsOf (0xFF0FF0FF : Word) = ⟨0xFF, 0, 15, 15, 0, 15, 15⟩ := by decide
  have hp : fieldsOf (0x38000000 : Word) = ⟨0x38, 0, 0, 0, 0, 0, 0⟩ := by decide
  rw [masked_fields]
  dsimp only [rowOf]
  rw [hm, hp]
  simp [encodeFields]

theorem EncodesInTable.revProc (rd : Reg) (t : BitVec 4) : EncodesInTable.Statement (.revProc rd t) := by
  apply encodesInTable_of_fields
  have hm : fieldsOf (0xFF0F0FFF : Word) = ⟨0xFF, 0, 15, 0, 15, 15, 15⟩ := by decide
  have hp : fieldsOf (0x39000000 : Word) = ⟨0x39, 0, 0, 0, 0, 0, 0⟩ := by decide
  rw [masked_fields]
  dsimp only [rowOf]
  rw [hm, hp]
  simp [encodeFields]

theorem EncodesInTable.revRst (t : BitVec 4) : EncodesInTable.Statement (.revRst t) := by
  apply encodesInTable_of_fields
  have hm : fieldsOf (0xFF0FFFFF : Word) = ⟨0xFF, 0, 15, 15, 15, 15, 15⟩ := by decide
  have hp : fieldsOf (0x3A000000 : Word) = ⟨0x3A, 0, 0, 0, 0, 0, 0⟩ := by decide
  rw [masked_fields]
  dsimp only [rowOf]
  rw [hm, hp]
  simp [encodeFields]

theorem EncodesInTable.seqTick (t : BitVec 4) : EncodesInTable.Statement (.seqTick t) := by
  apply encodesInTable_of_fields
  have hm : fieldsOf (0xFF0FFFFF : Word) = ⟨0xFF, 0, 15, 15, 15, 15, 15⟩ := by decide
  have hp : fieldsOf (0x40000000 : Word) = ⟨0x40, 0, 0, 0, 0, 0, 0⟩ := by decide
  rw [masked_fields]
  dsimp only [rowOf]
  rw [hm, hp]
  simp [encodeFields]

theorem EncodesInTable.seqRnds (t : BitVec 4) : EncodesInTable.Statement (.seqRnds t) := by
  apply encodesInTable_of_fields
  have hm : fieldsOf (0xFF0FFFFF : Word) = ⟨0xFF, 0, 15, 15, 15, 15, 15⟩ := by decide
  have hp : fieldsOf (0x41000000 : Word) = ⟨0x41, 0, 0, 0, 0, 0, 0⟩ := by decide
  rw [masked_fields]
  dsimp only [rowOf]
  rw [hm, hp]
  simp [encodeFields]

theorem EncodesInTable.seqRndr (t : BitVec 4) : EncodesInTable.Statement (.seqRndr t) := by
  apply encodesInTable_of_fields
  have hm : fieldsOf (0xFF0FFFFF : Word) = ⟨0xFF, 0, 15, 15, 15, 15, 15⟩ := by decide
  have hp : fieldsOf (0x42000000 : Word) = ⟨0x42, 0, 0, 0, 0, 0, 0⟩ := by decide
  rw [masked_fields]
  dsimp only [rowOf]
  rw [hm, hp]
  simp [encodeFields]

theorem EncodesInTable.voxTrig (t : BitVec 4) (note : BitVec 8) (accent : Bool) (slide : Bool) : EncodesInTable.Statement (.voxTrig t note accent slide) := by
  apply encodesInTable_of_fields
  have hm : fieldsOf (0xFF0FFC00 : Word) = ⟨0xFF, 0, 15, 15, 12, 0, 0⟩ := by decide
  have hp : fieldsOf (0x48000000 : Word) = ⟨0x48, 0, 0, 0, 0, 0, 0⟩ := by decide
  rw [masked_fields]
  dsimp only [rowOf]
  rw [hm, hp]
  simp [encodeFields, fiFields]
  revert note accent slide; decide

theorem EncodesInTable.voxOff (t : BitVec 4) : EncodesInTable.Statement (.voxOff t) := by
  apply encodesInTable_of_fields
  have hm : fieldsOf (0xFF0FFFFF : Word) = ⟨0xFF, 0, 15, 15, 15, 15, 15⟩ := by decide
  have hp : fieldsOf (0x49000000 : Word) = ⟨0x49, 0, 0, 0, 0, 0, 0⟩ := by decide
  rw [masked_fields]
  dsimp only [rowOf]
  rw [hm, hp]
  simp [encodeFields]

theorem EncodesInTable.voxTick (rd : Reg) (t : BitVec 4) : EncodesInTable.Statement (.voxTick rd t) := by
  apply encodesInTable_of_fields
  have hm : fieldsOf (0xFF0F0FFF : Word) = ⟨0xFF, 0, 15, 0, 15, 15, 15⟩ := by decide
  have hp : fieldsOf (0x4A000000 : Word) = ⟨0x4A, 0, 0, 0, 0, 0, 0⟩ := by decide
  rw [masked_fields]
  dsimp only [rowOf]
  rw [hm, hp]
  simp [encodeFields]

theorem EncodesInTable.mixTrk (t : BitVec 4) : EncodesInTable.Statement (.mixTrk t) := by
  apply encodesInTable_of_fields
  have hm : fieldsOf (0xFF0FFFFF : Word) = ⟨0xFF, 0, 15, 15, 15, 15, 15⟩ := by decide
  have hp : fieldsOf (0x50000000 : Word) = ⟨0x50, 0, 0, 0, 0, 0, 0⟩ := by decide
  rw [masked_fields]
  dsimp only [rowOf]
  rw [hm, hp]
  simp [encodeFields]

theorem EncodesInTable.mixPan (rd : Reg) (t : BitVec 4) (rs : Reg) : EncodesInTable.Statement (.mixPan rd t rs) := by
  apply encodesInTable_of_fields
  have hm : fieldsOf (0xFF0F00FF : Word) = ⟨0xFF, 0, 15, 0, 0, 15, 15⟩ := by decide
  have hp : fieldsOf (0x51000000 : Word) = ⟨0x51, 0, 0, 0, 0, 0, 0⟩ := by decide
  rw [masked_fields]
  dsimp only [rowOf]
  rw [hm, hp]
  simp [encodeFields]

theorem EncodesInTable.mixEmit : EncodesInTable.Statement (.mixEmit) := by
  apply encodesInTable_of_fields
  have hm : fieldsOf (0xFFFFFFFF : Word) = ⟨0xFF, 15, 15, 15, 15, 15, 15⟩ := by decide
  have hp : fieldsOf (0x52000000 : Word) = ⟨0x52, 0, 0, 0, 0, 0, 0⟩ := by decide
  rw [masked_fields]
  dsimp only [rowOf]
  rw [hm, hp]
  simp [encodeFields, f0Fields]

theorem EncodesInTable.mixCvt (rd : Reg) (rs : Reg) : EncodesInTable.Statement (.mixCvt rd rs) := by
  apply encodesInTable_of_fields
  have hm : fieldsOf (0xFFFF00FF : Word) = ⟨0xFF, 15, 15, 0, 0, 15, 15⟩ := by decide
  have hp : fieldsOf (0x53000000 : Word) = ⟨0x53, 0, 0, 0, 0, 0, 0⟩ := by decide
  rw [masked_fields]
  dsimp only [rowOf]
  rw [hm, hp]
  simp [encodeFields]

end Sys2Proof.Laws
end

