-- ==== Sys2Proof/Laws/Units.lean ====
section
/-! SUPPORT. For each unit operation, the parts of the state it leaves alone. Each lemma is a conjunction, one part a field. -/

namespace Sys2Proof.Laws

open Sys2Proof Sys2Proof.Machine

@[simp] theorem oscSetf_frame (s : State) (k : Fin Config.NTRK) (f : F32) :
    (oscSetf k f s).x = s.x ∧ (oscSetf k f s).rpos = s.rpos ∧ (oscSetf k f s).status = s.status ∧
    (oscSetf k f s).errinfo = s.errinfo ∧ (oscSetf k f s).bufcnt = s.bufcnt ∧ (oscSetf k f s).bytecnt = s.bytecnt ∧
    (oscSetf k f s).maccl = s.maccl ∧ (oscSetf k f s).maccr = s.maccr ∧ (oscSetf k f s).mem = s.mem ∧
    (oscSetf k f s).events = s.events ∧ (oscSetf k f s).inputs = s.inputs := by
  simp [oscSetf]

@[simp] theorem smpSets_frame (s : State) (k : Fin Config.NTRK) (b l : Word) :
    (smpSets k b l s).x = s.x ∧ (smpSets k b l s).rpos = s.rpos ∧ (smpSets k b l s).status = s.status ∧
    (smpSets k b l s).errinfo = s.errinfo ∧ (smpSets k b l s).bufcnt = s.bufcnt ∧ (smpSets k b l s).bytecnt = s.bytecnt ∧
    (smpSets k b l s).maccl = s.maccl ∧ (smpSets k b l s).maccr = s.maccr ∧ (smpSets k b l s).mem = s.mem ∧
    (smpSets k b l s).events = s.events ∧ (smpSets k b l s).inputs = s.inputs := by
  simp [smpSets]

@[simp] theorem smpTrig_frame (s : State) (k : Fin Config.NTRK) :
    (smpTrig k s).x = s.x ∧ (smpTrig k s).rpos = s.rpos ∧ (smpTrig k s).status = s.status ∧ (smpTrig k s).err = s.err ∧
    (smpTrig k s).errinfo = s.errinfo ∧ (smpTrig k s).bufcnt = s.bufcnt ∧ (smpTrig k s).bytecnt = s.bytecnt ∧
    (smpTrig k s).maccl = s.maccl ∧ (smpTrig k s).maccr = s.maccr ∧ (smpTrig k s).mem = s.mem ∧
    (smpTrig k s).events = s.events ∧ (smpTrig k s).inputs = s.inputs := by
  simp [smpTrig]

@[simp] theorem copySample_frame (s : State) (n : BitVec 7) (d c : Nat) :
    (copySample n d c s).x = s.x ∧ (copySample n d c s).rpos = s.rpos ∧ (copySample n d c s).status = s.status ∧
    (copySample n d c s).err = s.err ∧ (copySample n d c s).errinfo = s.errinfo ∧ (copySample n d c s).bufcnt = s.bufcnt ∧
    (copySample n d c s).bytecnt = s.bytecnt ∧ (copySample n d c s).maccl = s.maccl ∧
    (copySample n d c s).maccr = s.maccr ∧ (copySample n d c s).tracks = s.tracks ∧
    (copySample n d c s).events = s.events ∧ (copySample n d c s).inputs = s.inputs := by
  simp [copySample]

@[simp] theorem sealTable_frame (s : State) (n : BitVec 7) :
    (sealTable n s).x = s.x ∧ (sealTable n s).rpos = s.rpos ∧ (sealTable n s).status = s.status ∧
    (sealTable n s).err = s.err ∧ (sealTable n s).errinfo = s.errinfo ∧ (sealTable n s).bufcnt = s.bufcnt ∧
    (sealTable n s).bytecnt = s.bytecnt ∧ (sealTable n s).maccl = s.maccl ∧ (sealTable n s).maccr = s.maccr ∧
    (sealTable n s).tracks = s.tracks ∧ (sealTable n s).events = s.events ∧ (sealTable n s).inputs = s.inputs := by
  simp [sealTable]

@[simp] theorem apfMute_frame (s : State) (k : Fin Config.NTRK) (u : Fin Config.NSTAGE) :
    (apfMute k u s).x = s.x ∧ (apfMute k u s).rpos = s.rpos ∧ (apfMute k u s).status = s.status ∧
    (apfMute k u s).err = s.err ∧ (apfMute k u s).errinfo = s.errinfo ∧ (apfMute k u s).bufcnt = s.bufcnt ∧
    (apfMute k u s).bytecnt = s.bytecnt ∧ (apfMute k u s).maccl = s.maccl ∧ (apfMute k u s).maccr = s.maccr ∧
    (apfMute k u s).tracks = s.tracks ∧ (apfMute k u s).events = s.events ∧ (apfMute k u s).inputs = s.inputs := by
  simp [apfMute]

@[simp] theorem hpfProc_frame (s : State) (k : Fin Config.NTRK) (u : Fin Config.NHPF) (v : F32) :
    (hpfProc k u v s).2.x = s.x ∧ (hpfProc k u v s).2.rpos = s.rpos ∧ (hpfProc k u v s).2.status = s.status ∧
    (hpfProc k u v s).2.err = s.err ∧ (hpfProc k u v s).2.errinfo = s.errinfo ∧ (hpfProc k u v s).2.bufcnt = s.bufcnt ∧
    (hpfProc k u v s).2.bytecnt = s.bytecnt ∧ (hpfProc k u v s).2.maccl = s.maccl ∧ (hpfProc k u v s).2.maccr = s.maccr ∧
    (hpfProc k u v s).2.mem = s.mem ∧ (hpfProc k u v s).2.events = s.events ∧ (hpfProc k u v s).2.inputs = s.inputs := by
  simp [hpfProc]

@[simp] theorem hpfSetc_frame (s : State) (k : Fin Config.NTRK) (u : Fin Config.NHPF) (v : F32) :
    (hpfSetc k u v s).x = s.x ∧ (hpfSetc k u v s).rpos = s.rpos ∧ (hpfSetc k u v s).status = s.status ∧
    (hpfSetc k u v s).errinfo = s.errinfo ∧ (hpfSetc k u v s).bufcnt = s.bufcnt ∧ (hpfSetc k u v s).bytecnt = s.bytecnt ∧
    (hpfSetc k u v s).maccl = s.maccl ∧ (hpfSetc k u v s).maccr = s.maccr ∧ (hpfSetc k u v s).mem = s.mem ∧
    (hpfSetc k u v s).events = s.events ∧ (hpfSetc k u v s).inputs = s.inputs := by
  simp [hpfSetc]

@[simp] theorem dlyIn_frame (s : State) (k : Fin Config.NTRK) (v : F32) :
    (dlyIn k v s).x = s.x ∧ (dlyIn k v s).rpos = s.rpos ∧ (dlyIn k v s).status = s.status ∧ (dlyIn k v s).err = s.err ∧
    (dlyIn k v s).errinfo = s.errinfo ∧ (dlyIn k v s).bufcnt = s.bufcnt ∧ (dlyIn k v s).bytecnt = s.bytecnt ∧
    (dlyIn k v s).maccl = s.maccl ∧ (dlyIn k v s).maccr = s.maccr ∧ (dlyIn k v s).tracks = s.tracks ∧
    (dlyIn k v s).events = s.events ∧ (dlyIn k v s).inputs = s.inputs := by
  simp [dlyIn]

@[simp] theorem dlyOut_frame (s : State) (k : Fin Config.NTRK) :
    (dlyOut k s).2.x = s.x ∧ (dlyOut k s).2.rpos = s.rpos ∧ (dlyOut k s).2.status = s.status ∧ (dlyOut k s).2.err = s.err ∧
    (dlyOut k s).2.errinfo = s.errinfo ∧ (dlyOut k s).2.bufcnt = s.bufcnt ∧ (dlyOut k s).2.bytecnt = s.bytecnt ∧
    (dlyOut k s).2.maccl = s.maccl ∧ (dlyOut k s).2.maccr = s.maccr ∧ (dlyOut k s).2.events = s.events ∧
    (dlyOut k s).2.inputs = s.inputs := by
  simp [dlyOut]

@[simp] theorem dlySett_frame (s : State) (k : Fin Config.NTRK) (v : Word) :
    (dlySett k v s).x = s.x ∧ (dlySett k v s).rpos = s.rpos ∧ (dlySett k v s).status = s.status ∧
    (dlySett k v s).errinfo = s.errinfo ∧ (dlySett k v s).bufcnt = s.bufcnt ∧ (dlySett k v s).bytecnt = s.bytecnt ∧
    (dlySett k v s).maccl = s.maccl ∧ (dlySett k v s).maccr = s.maccr ∧ (dlySett k v s).mem = s.mem ∧
    (dlySett k v s).events = s.events ∧ (dlySett k v s).inputs = s.inputs := by
  simp [dlySett]

@[simp] theorem revIn_frame (s : State) (k : Fin Config.NTRK) (v : F32) :
    (revIn k v s).x = s.x ∧ (revIn k v s).rpos = s.rpos ∧ (revIn k v s).status = s.status ∧ (revIn k v s).err = s.err ∧
    (revIn k v s).errinfo = s.errinfo ∧ (revIn k v s).bufcnt = s.bufcnt ∧ (revIn k v s).bytecnt = s.bytecnt ∧
    (revIn k v s).maccl = s.maccl ∧ (revIn k v s).maccr = s.maccr ∧ (revIn k v s).mem = s.mem ∧
    (revIn k v s).events = s.events ∧ (revIn k v s).inputs = s.inputs := by
  simp [revIn]

@[simp] theorem muteStages_frame (s : State) (k : Fin Config.NTRK) :
    (muteStages k s).x = s.x ∧ (muteStages k s).rpos = s.rpos ∧ (muteStages k s).status = s.status ∧
    (muteStages k s).err = s.err ∧ (muteStages k s).errinfo = s.errinfo ∧ (muteStages k s).bufcnt = s.bufcnt ∧
    (muteStages k s).bytecnt = s.bytecnt ∧ (muteStages k s).maccl = s.maccl ∧ (muteStages k s).maccr = s.maccr ∧
    (muteStages k s).tracks = s.tracks ∧ (muteStages k s).events = s.events ∧ (muteStages k s).inputs = s.inputs := by
  simp [muteStages, leftChain, rightChain]

@[simp] theorem revRst_frame (s : State) (k : Fin Config.NTRK) :
    (revRst k s).x = s.x ∧ (revRst k s).rpos = s.rpos ∧ (revRst k s).status = s.status ∧ (revRst k s).err = s.err ∧
    (revRst k s).errinfo = s.errinfo ∧ (revRst k s).bufcnt = s.bufcnt ∧ (revRst k s).bytecnt = s.bytecnt ∧
    (revRst k s).maccl = s.maccl ∧ (revRst k s).maccr = s.maccr ∧ (revRst k s).events = s.events ∧
    (revRst k s).inputs = s.inputs := by
  simp [revRst]

@[simp] theorem restartSampler_frame (s : State) (k : Fin Config.NTRK) :
    (restartSampler k s).x = s.x ∧ (restartSampler k s).rpos = s.rpos ∧ (restartSampler k s).status = s.status ∧
    (restartSampler k s).err = s.err ∧ (restartSampler k s).errinfo = s.errinfo ∧ (restartSampler k s).bufcnt = s.bufcnt ∧
    (restartSampler k s).bytecnt = s.bytecnt ∧ (restartSampler k s).maccl = s.maccl ∧
    (restartSampler k s).maccr = s.maccr ∧ (restartSampler k s).mem = s.mem ∧ (restartSampler k s).events = s.events ∧
    (restartSampler k s).inputs = s.inputs := by
  unfold restartSampler; split <;> simp

@[simp] theorem voxTrig_frame (s : State) (k : Fin Config.NTRK) (n : BitVec 8) (a b : Bool) :
    (voxTrig k n a b s).x = s.x ∧ (voxTrig k n a b s).rpos = s.rpos ∧ (voxTrig k n a b s).status = s.status ∧
    (voxTrig k n a b s).errinfo = s.errinfo ∧ (voxTrig k n a b s).bufcnt = s.bufcnt ∧
    (voxTrig k n a b s).bytecnt = s.bytecnt ∧ (voxTrig k n a b s).maccl = s.maccl ∧ (voxTrig k n a b s).maccr = s.maccr ∧
    (voxTrig k n a b s).mem = s.mem ∧ (voxTrig k n a b s).events = s.events ∧ (voxTrig k n a b s).inputs = s.inputs := by
  unfold voxTrig; dsimp only; split <;> simp

@[simp] theorem voxOff_frame (s : State) (k : Fin Config.NTRK) :
    (voxOff k s).x = s.x ∧ (voxOff k s).rpos = s.rpos ∧ (voxOff k s).status = s.status ∧ (voxOff k s).err = s.err ∧
    (voxOff k s).errinfo = s.errinfo ∧ (voxOff k s).bufcnt = s.bufcnt ∧ (voxOff k s).bytecnt = s.bytecnt ∧
    (voxOff k s).maccl = s.maccl ∧ (voxOff k s).maccr = s.maccr ∧ (voxOff k s).mem = s.mem ∧
    (voxOff k s).events = s.events ∧ (voxOff k s).inputs = s.inputs := by
  simp [voxOff]

@[simp] theorem glideTick_frame (s : State) (k : Fin Config.NTRK) :
    (glideTick k s).x = s.x ∧ (glideTick k s).rpos = s.rpos ∧ (glideTick k s).status = s.status ∧
    (glideTick k s).errinfo = s.errinfo ∧ (glideTick k s).bufcnt = s.bufcnt ∧ (glideTick k s).bytecnt = s.bytecnt ∧
    (glideTick k s).maccl = s.maccl ∧ (glideTick k s).maccr = s.maccr ∧ (glideTick k s).mem = s.mem ∧
    (glideTick k s).events = s.events ∧ (glideTick k s).inputs = s.inputs := by
  unfold glideTick; dsimp only; split <;> simp

@[simp] theorem playSlot_frame (s : State) (k : Fin Config.NTRK) (q : BitVec 4) :
    (playSlot k q s).x = s.x ∧ (playSlot k q s).rpos = s.rpos ∧ (playSlot k q s).status = s.status ∧
    (playSlot k q s).errinfo = s.errinfo ∧ (playSlot k q s).bufcnt = s.bufcnt ∧ (playSlot k q s).bytecnt = s.bytecnt ∧
    (playSlot k q s).maccl = s.maccl ∧ (playSlot k q s).maccr = s.maccr ∧ (playSlot k q s).mem = s.mem ∧
    (playSlot k q s).events = s.events ∧ (playSlot k q s).inputs = s.inputs := by
  unfold playSlot; split <;> simp

@[simp] theorem stepBoundary_frame (s : State) (k : Fin Config.NTRK) :
    (stepBoundary k s).x = s.x ∧ (stepBoundary k s).rpos = s.rpos ∧ (stepBoundary k s).status = s.status ∧
    (stepBoundary k s).errinfo = s.errinfo ∧ (stepBoundary k s).bufcnt = s.bufcnt ∧
    (stepBoundary k s).bytecnt = s.bytecnt ∧ (stepBoundary k s).maccl = s.maccl ∧ (stepBoundary k s).maccr = s.maccr ∧
    (stepBoundary k s).mem = s.mem ∧ (stepBoundary k s).events = s.events ∧ (stepBoundary k s).inputs = s.inputs := by
  simp [stepBoundary]

@[simp] theorem seqTick_frame (s : State) (k : Fin Config.NTRK) :
    (seqTick k s).x = s.x ∧ (seqTick k s).rpos = s.rpos ∧ (seqTick k s).status = s.status ∧
    (seqTick k s).errinfo = s.errinfo ∧ (seqTick k s).bufcnt = s.bufcnt ∧ (seqTick k s).bytecnt = s.bytecnt ∧
    (seqTick k s).maccl = s.maccl ∧ (seqTick k s).maccr = s.maccr ∧ (seqTick k s).mem = s.mem ∧
    (seqTick k s).events = s.events ∧ (seqTick k s).inputs = s.inputs := by
  unfold seqTick; dsimp only; split <;> simp

@[simp] theorem rndNote_frame (s : State) (k : Fin Config.NTRK) (q : BitVec 4) :
    (rndNote k s q).x = s.x ∧ (rndNote k s q).rpos = s.rpos ∧ (rndNote k s q).status = s.status ∧
    (rndNote k s q).err = s.err ∧ (rndNote k s q).errinfo = s.errinfo ∧ (rndNote k s q).bufcnt = s.bufcnt ∧
    (rndNote k s q).bytecnt = s.bytecnt ∧ (rndNote k s q).maccl = s.maccl ∧ (rndNote k s q).maccr = s.maccr ∧
    (rndNote k s q).tracks = s.tracks ∧ (rndNote k s q).events = s.events := by
  simp [rndNote]

@[simp] theorem seqRnds_frame (s : State) (k : Fin Config.NTRK) :
    (seqRnds k s).x = s.x ∧ (seqRnds k s).rpos = s.rpos ∧ (seqRnds k s).status = s.status ∧ (seqRnds k s).err = s.err ∧
    (seqRnds k s).errinfo = s.errinfo ∧ (seqRnds k s).bufcnt = s.bufcnt ∧ (seqRnds k s).bytecnt = s.bytecnt ∧
    (seqRnds k s).maccl = s.maccl ∧ (seqRnds k s).maccr = s.maccr ∧ (seqRnds k s).tracks = s.tracks ∧
    (seqRnds k s).events = s.events := by
  simp [seqRnds, patternSlots]

@[simp] theorem rndFlag_frame (s : State) (sp : Space) (k : Fin Config.NTRK) (q : BitVec 4) :
    (rndFlag sp k q s).x = s.x ∧ (rndFlag sp k q s).rpos = s.rpos ∧ (rndFlag sp k q s).status = s.status ∧
    (rndFlag sp k q s).err = s.err ∧ (rndFlag sp k q s).errinfo = s.errinfo ∧ (rndFlag sp k q s).bufcnt = s.bufcnt ∧
    (rndFlag sp k q s).bytecnt = s.bytecnt ∧ (rndFlag sp k q s).maccl = s.maccl ∧ (rndFlag sp k q s).maccr = s.maccr ∧
    (rndFlag sp k q s).tracks = s.tracks ∧ (rndFlag sp k q s).events = s.events := by
  simp [rndFlag]

@[simp] theorem rndSlot_frame (s : State) (k : Fin Config.NTRK) (q : BitVec 4) :
    (rndSlot k s q).x = s.x ∧ (rndSlot k s q).rpos = s.rpos ∧ (rndSlot k s q).status = s.status ∧
    (rndSlot k s q).err = s.err ∧ (rndSlot k s q).errinfo = s.errinfo ∧ (rndSlot k s q).bufcnt = s.bufcnt ∧
    (rndSlot k s q).bytecnt = s.bytecnt ∧ (rndSlot k s q).maccl = s.maccl ∧ (rndSlot k s q).maccr = s.maccr ∧
    (rndSlot k s q).tracks = s.tracks ∧ (rndSlot k s q).events = s.events := by
  simp [rndSlot]

@[simp] theorem seqRndr_frame (s : State) (k : Fin Config.NTRK) :
    (seqRndr k s).x = s.x ∧ (seqRndr k s).rpos = s.rpos ∧ (seqRndr k s).status = s.status ∧ (seqRndr k s).err = s.err ∧
    (seqRndr k s).errinfo = s.errinfo ∧ (seqRndr k s).bufcnt = s.bufcnt ∧ (seqRndr k s).bytecnt = s.bytecnt ∧
    (seqRndr k s).maccl = s.maccl ∧ (seqRndr k s).maccr = s.maccr ∧ (seqRndr k s).tracks = s.tracks ∧
    (seqRndr k s).events = s.events := by
  simp [seqRndr, patternSlots]

@[simp] theorem accumulate_frame (s : State) (k : Fin Config.NTRK) (l r : F32) :
    (accumulate k l r s).x = s.x ∧ (accumulate k l r s).rpos = s.rpos ∧ (accumulate k l r s).status = s.status ∧
    (accumulate k l r s).err = s.err ∧ (accumulate k l r s).errinfo = s.errinfo ∧ (accumulate k l r s).bufcnt = s.bufcnt ∧
    (accumulate k l r s).bytecnt = s.bytecnt ∧ (accumulate k l r s).tracks = s.tracks ∧ (accumulate k l r s).mem = s.mem ∧
    (accumulate k l r s).events = s.events ∧ (accumulate k l r s).inputs = s.inputs := by
  simp [accumulate]

@[simp] theorem storeFrame_frame (s : State) :
    (storeFrame s).x = s.x ∧ (storeFrame s).rpos = s.rpos ∧ (storeFrame s).status = s.status ∧ (storeFrame s).err = s.err ∧
    (storeFrame s).errinfo = s.errinfo ∧ (storeFrame s).bufcnt = s.bufcnt ∧ (storeFrame s).bytecnt = s.bytecnt ∧
    (storeFrame s).tracks = s.tracks ∧ (storeFrame s).events = s.events ∧ (storeFrame s).inputs = s.inputs := by
  simp [storeFrame]

@[simp] theorem offerDevice_frame (s : State) :
    (offerDevice s).x = s.x ∧ (offerDevice s).rpos = s.rpos ∧ (offerDevice s).errinfo = s.errinfo ∧
    (offerDevice s).bufcnt = s.bufcnt ∧ (offerDevice s).bytecnt = s.bytecnt ∧ (offerDevice s).maccl = s.maccl ∧
    (offerDevice s).maccr = s.maccr ∧ (offerDevice s).tracks = s.tracks ∧ (offerDevice s).mem = s.mem ∧
    (offerDevice s).events = s.events := by
  unfold offerDevice; split <;> (try split) <;> simp

@[simp] theorem offerCapture_frame (s : State) :
    (offerCapture s).x = s.x ∧ (offerCapture s).rpos = s.rpos ∧ (offerCapture s).errinfo = s.errinfo ∧
    (offerCapture s).bufcnt = s.bufcnt ∧ (offerCapture s).bytecnt = s.bytecnt ∧ (offerCapture s).maccl = s.maccl ∧
    (offerCapture s).maccr = s.maccr ∧ (offerCapture s).tracks = s.tracks ∧ (offerCapture s).mem = s.mem ∧
    (offerCapture s).events = s.events := by
  unfold offerCapture; split <;> (try split) <;> simp

@[simp] theorem handoff_frame (s : State) (b : Fin Config.NBUF) :
    (handoff b s).x = s.x ∧ (handoff b s).errinfo = s.errinfo ∧ (handoff b s).maccl = s.maccl ∧
    (handoff b s).maccr = s.maccr ∧ (handoff b s).tracks = s.tracks ∧ (handoff b s).mem = s.mem := by
  simp [handoff]

@[simp] theorem mixEmit_frame (s : State) :
    (mixEmit s).x = s.x ∧ (mixEmit s).errinfo = s.errinfo ∧ (mixEmit s).tracks = s.tracks := by
  unfold mixEmit; split <;> simp

@[simp] theorem initTrack_frame (s : State) (k : Fin Config.NTRK) :
    (initTrack s k).x = s.x ∧ (initTrack s k).rpos = s.rpos ∧ (initTrack s k).status = s.status ∧
    (initTrack s k).err = s.err ∧ (initTrack s k).errinfo = s.errinfo ∧ (initTrack s k).bufcnt = s.bufcnt ∧
    (initTrack s k).bytecnt = s.bytecnt ∧ (initTrack s k).maccl = s.maccl ∧ (initTrack s k).maccr = s.maccr ∧
    (initTrack s k).events = s.events ∧ (initTrack s k).inputs = s.inputs := by
  simp [initTrack]

@[simp] theorem initEngine_frame (s : State) :
    (initEngine s).x = s.x ∧ (initEngine s).status = s.status ∧ (initEngine s).err = s.err ∧
    (initEngine s).errinfo = s.errinfo ∧ (initEngine s).events = s.events ∧ (initEngine s).inputs = s.inputs := by
  simp [initEngine, allTracks]

@[simp] theorem abortStart_frame (s : State) (d c : Bool) :
    (abortStart d c s).x = s.x ∧ (abortStart d c s).rpos = s.rpos ∧ (abortStart d c s).errinfo = s.errinfo ∧
    (abortStart d c s).bufcnt = s.bufcnt ∧ (abortStart d c s).bytecnt = s.bytecnt ∧ (abortStart d c s).maccl = s.maccl ∧
    (abortStart d c s).maccr = s.maccr ∧ (abortStart d c s).tracks = s.tracks ∧ (abortStart d c s).mem = s.mem ∧
    (abortStart d c s).events = s.events ∧ (abortStart d c s).inputs = s.inputs := by
  simp [abortStart]

@[simp] theorem beginRun_frame (s : State) :
    (beginRun s).x = s.x ∧ (beginRun s).err = s.err ∧ (beginRun s).errinfo = s.errinfo ∧ (beginRun s).events = s.events ∧
    (beginRun s).inputs = s.inputs := by
  simp [beginRun]

@[simp] theorem disposeStep_frame (s : State) :
    (disposeStep s).x = s.x ∧ (disposeStep s).rpos = s.rpos ∧ (disposeStep s).err = s.err ∧
    (disposeStep s).errinfo = s.errinfo ∧ (disposeStep s).bufcnt = s.bufcnt ∧ (disposeStep s).bytecnt = s.bytecnt ∧
    (disposeStep s).maccl = s.maccl ∧ (disposeStep s).maccr = s.maccr ∧ (disposeStep s).tracks = s.tracks ∧
    (disposeStep s).mem = s.mem ∧ (disposeStep s).inputs = s.inputs := by
  simp [disposeStep]

/-! ## The other tracks -/

theorem oscSetf_track_ne (s : State) {k j : Fin Config.NTRK} (h : j ≠ k) (f : F32) :
    (oscSetf k f s).track j = s.track j := by
  simp [oscSetf, track_setTrack_ne _ _ h]

theorem smpSets_track_ne (s : State) {k j : Fin Config.NTRK} (h : j ≠ k) (b l : Word) :
    (smpSets k b l s).track j = s.track j := by
  simp [smpSets, track_setTrack_ne _ _ h]

theorem smpTrig_track_ne (s : State) {k j : Fin Config.NTRK} (h : j ≠ k) :
    (smpTrig k s).track j = s.track j := by
  simp [smpTrig, track_setTrack_ne _ _ h]

theorem hpfProc_track_ne (s : State) {k j : Fin Config.NTRK} (h : j ≠ k) (u : Fin Config.NHPF) (v : F32) :
    (hpfProc k u v s).2.track j = s.track j := by
  simp [hpfProc, track_setTrack_ne _ _ h]

theorem hpfSetc_track_ne (s : State) {k j : Fin Config.NTRK} (h : j ≠ k) (u : Fin Config.NHPF) (v : F32) :
    (hpfSetc k u v s).track j = s.track j := by
  simp [hpfSetc, track_setTrack_ne _ _ h]

theorem dlyOut_track_ne (s : State) {k j : Fin Config.NTRK} (h : j ≠ k) :
    (dlyOut k s).2.track j = s.track j := by
  simp [dlyOut, hpfProc, track_setTrack_ne _ _ h]

theorem dlySett_track_ne (s : State) {k j : Fin Config.NTRK} (h : j ≠ k) (v : Word) :
    (dlySett k v s).track j = s.track j := by
  simp [dlySett, track_setTrack_ne _ _ h]

theorem revIn_track_ne (s : State) {k j : Fin Config.NTRK} (h : j ≠ k) (v : F32) :
    (revIn k v s).track j = s.track j := by
  simp [revIn, track_setTrack_ne _ _ h]

theorem revRst_track_ne (s : State) {k j : Fin Config.NTRK} (h : j ≠ k) :
    (revRst k s).track j = s.track j := by
  simp only [revRst, track_setTrack_ne _ _ h]; unfold State.track; rw [(muteStages_frame s k).2.2.2.2.2.2.2.2.2.1]

theorem restartSampler_track_ne (s : State) {k j : Fin Config.NTRK} (h : j ≠ k) :
    (restartSampler k s).track j = s.track j := by
  unfold restartSampler; split <;> simp [smpTrig, track_setTrack_ne _ _ h]

theorem voxTrig_track_ne (s : State) {k j : Fin Config.NTRK} (h : j ≠ k) (n : BitVec 8) (a b : Bool) :
    (voxTrig k n a b s).track j = s.track j := by
  unfold voxTrig; dsimp only; split <;> simp [track_setTrack_ne _ _ h, restartSampler_track_ne _ h, oscSetf_track_ne _ h]

theorem voxOff_track_ne (s : State) {k j : Fin Config.NTRK} (h : j ≠ k) :
    (voxOff k s).track j = s.track j := by
  simp [voxOff, track_setTrack_ne _ _ h]

theorem glideTick_track_ne (s : State) {k j : Fin Config.NTRK} (h : j ≠ k) :
    (glideTick k s).track j = s.track j := by
  unfold glideTick; dsimp only; split <;> simp [track_setTrack_ne _ _ h, oscSetf_track_ne _ h]

theorem playSlot_track_ne (s : State) {k j : Fin Config.NTRK} (h : j ≠ k) (q : BitVec 4) :
    (playSlot k q s).track j = s.track j := by
  unfold playSlot; split <;> simp [voxOff_track_ne _ h, voxTrig_track_ne _ h]

theorem stepBoundary_track_ne (s : State) {k j : Fin Config.NTRK} (h : j ≠ k) :
    (stepBoundary k s).track j = s.track j := by
  simp [stepBoundary, track_setTrack_ne _ _ h, playSlot_track_ne _ h]

theorem seqTick_track_ne (s : State) {k j : Fin Config.NTRK} (h : j ≠ k) :
    (seqTick k s).track j = s.track j := by
  unfold seqTick; dsimp only; split <;> simp [track_setTrack_ne _ _ h, stepBoundary_track_ne _ h]

/-! ## The sinks -/

/-- The next draw depends on the inputs alone. -/
theorem nextBit_of_inputs {s t : State} (h : s.inputs = t.inputs) : s.nextBit = t.nextBit ∧ s.afterDraw.inputs = t.afterDraw.inputs := by
  unfold State.nextBit State.nextAnswer State.afterDraw
  rw [h]
  refine ⟨rfl, ?_⟩
  cases t.inputs.answers <;> simp

/-- All an offer to the device sink can do (R239). -/
theorem offerDevice_effect (s : State) :
    (offerDevice s).status = { s.status with devok := s.status.devok && s.nextBit } ∧
    (offerDevice s).err = s.err ||| (if s.status.devok && !s.nextBit then 0x080 else 0) ∧
    (offerDevice s).inputs = (if s.status.devok then s.afterDraw else s).inputs := by
  unfold offerDevice
  rcases hd : s.status.devok with _ | _ <;> rcases hb : s.nextBit with _ | _ <;> simp
  · cases h : s.status; simp_all
  · cases h : s.status; simp_all
  · rfl
  · cases h : s.status; simp_all

/-- All an offer to the capture sink can do (R239). -/
theorem offerCapture_effect (s : State) :
    (offerCapture s).status = { s.status with capok := s.status.capok && s.nextBit } ∧
    (offerCapture s).err = s.err ||| (if s.status.capok && !s.nextBit then 0x100 else 0) ∧
    (offerCapture s).inputs = (if s.status.capok then s.afterDraw else s).inputs := by
  unfold offerCapture
  rcases hd : s.status.capok with _ | _ <;> rcases hb : s.nextBit with _ | _ <;> simp
  · cases h : s.status; simp_all
  · cases h : s.status; simp_all
  · rfl
  · cases h : s.status; simp_all

/-! ### Draws -/

@[simp] theorem afterDraws_zero (s : State) : s.afterDraws 0 = s := rfl
@[simp] theorem afterDraws_succ (s : State) (n : Nat) : s.afterDraws (n + 1) = (s.afterDraws n).afterDraw := rfl

/-- Draws change the inputs and nothing else. -/
theorem afterDraws_eq (s : State) (n : Nat) : s.afterDraws n = { s with inputs := (s.afterDraws n).inputs } := by
  induction n with
  | zero => rfl
  | succ n ih =>
    rw [afterDraws_succ]
    generalize s.afterDraws n = t at ih
    rw [ih]
    unfold State.afterDraw
    split <;> rfl

/-- A draw from a script takes its head and leaves its tail. -/
theorem draw_of_cons {s : State} {a : BitVec 7} {rest : List (BitVec 7)} (h : s.inputs.answers = a :: rest) :
    s.nextAnswer = a ∧ s.afterDraw = { s with inputs := { s.inputs with answers := rest } } := by
  unfold State.nextAnswer State.afterDraw
  rw [h]
  exact ⟨rfl, rfl⟩

/-! ### The seek -/

/-- The upward loop: it ends above its start and at most at 127, every pitch it passed is at most f, and the next one is not, given
rounds enough (R140). -/
theorem seekUp_spec (s : State) (f : F32) (rounds i : Nat) (hi : i ≤ 127) (hr : 127 ≤ i + rounds) :
    i ≤ seekUp s f rounds i ∧ seekUp s f rounds i ≤ 127 ∧
    (∀ m, i < m → m ≤ seekUp s f rounds i → fle (s.ft m) f = true) ∧
    (seekUp s f rounds i = 127 ∨ fle (s.ft (seekUp s f rounds i + 1)) f = false) := by
  induction rounds generalizing i with
  | zero => exact ⟨Nat.le_refl i, hi, fun m h1 h2 => by simp only [seekUp] at h2; omega, .inl (by simp only [seekUp]; omega)⟩
  | succ k ih =>
    unfold seekUp
    by_cases h : (decide (i < 127) && fle (s.ft (i + 1)) f) = true
    · rw [if_pos h]
      simp only [Bool.and_eq_true, decide_eq_true_eq] at h
      obtain ⟨a, b, c, d⟩ := ih (i + 1) (by omega) (by omega)
      refine ⟨by omega, b, fun m h1 h2 => ?_, d⟩
      rcases Nat.lt_or_ge (i + 1) m with h3 | h3
      · exact c m h3 h2
      · obtain rfl : m = i + 1 := by omega
        exact h.2
    · rw [if_neg h]
      simp only [Bool.and_eq_true, decide_eq_true_eq, not_and, Bool.not_eq_true] at h
      refine ⟨Nat.le_refl i, hi, fun m h1 h2 => by omega, ?_⟩
      rcases Nat.lt_or_ge i 127 with h3 | h3
      · exact .inr (h h3)
      · exact .inl (by omega)

/-- The downward loop: it ends at or below its start, f is below every pitch it passed and not below the one it ends at, unless it
ends at 0 (R140). -/
theorem seekDown_spec (s : State) (f : F32) (i : Nat) :
    seekDown s f i ≤ i ∧ (∀ m, seekDown s f i < m → m ≤ i → flt f (s.ft m) = true) ∧
    (seekDown s f i = 0 ∨ flt f (s.ft (seekDown s f i)) = false) := by
  induction i with
  | zero => exact ⟨Nat.le_refl 0, fun m h1 h2 => by simp only [seekDown] at h1; omega, .inl rfl⟩
  | succ k ih =>
    unfold seekDown
    by_cases h : flt f (s.ft (k + 1)) = true
    · rw [if_pos h]
      refine ⟨by omega, fun m h1 h2 => ?_, ih.2.2⟩
      rcases Nat.lt_or_ge k m with h3 | h3
      · obtain rfl : m = k + 1 := by omega
        exact h
      · exact ih.2.1 m h1 h3
    · rw [if_neg h]
      exact ⟨Nat.le_refl _, fun m h1 h2 => by omega, .inr (by simpa using h)⟩

end Sys2Proof.Laws
end

