-- ==== Sys2Proof/Tests/Slice0.lean ====
section
/-! SUPPORT. Tests: ill-formed terms, one word of every command written out from R94, steps whose results the spec gives (rule
numbers beside them), and for each obligation with hypotheses a state that meets them. -/

namespace Sys2Proof.Tests

set_option Elab.async false

open Sys2Proof Sys2Proof.Machine

/-- What a test looks at in the next state, if there is one. -/
def after {α : Type} (r : Result) (f : State → α) : Option α :=
  match r with
  | .next u => some (f u)
  | .fault _ => none
  | .refused _ => none

/-- Reset with two operand registers set. -/
def withX (r : Reg) (v : Word) (q : Reg) (w : Word) : State := (State.reset.setX r v).setX q w

/-- Reset with another STATUS. -/
def withStatus (st : Status) : State := { State.reset with status := st }

/-- Reset with scripted answers. -/
def withAnswers (answers : List (BitVec 7)) : State := { State.reset with inputs := ⟨[], answers, 0⟩ }

/-- Reset with scripted turns. -/
def withTurns (turns : List Turn) (s : State) : State := { s with inputs := { s.inputs with turns := turns } }

/-- Reset with another track 0. -/
def withTrack (tr : Track) : State := State.reset.setTrack 0 tr

/-- STATUS of the state RUN (R234). -/
def runStatus : Status := ⟨true, false, true, false, true, true⟩

/-! ## Ill-formed terms (R94, R123, R124) -/

theorem test_illformed_csrr : WellFormed (.csrr 5 1 0x80) = false := by decide
theorem test_illformed_csrw : WellFormed (.csrw 1 0x81 5) = false := by decide
theorem test_illformed_csrr_word : decode 0x03150080 = .error .reservedField := by decide
theorem test_illformed_csrw_word : decode 0x04150081 = .error .reservedField := by decide
theorem test_illformed_csrr_rejected :
    after (exec (.csrr 5 1 0x80) State.reset) id = some { State.reset with err := 0x001, errinfo := 0x03150080 } := by decide
theorem test_reserved_nop : decode 0x00000001 = .error .reservedField := by decide
theorem test_reserved_ldm : decode 0x05004502 = .error .reservedField := by decide
theorem test_reserved_trig : decode 0x48000400 = .error .reservedField := by decide
theorem test_reserved_seal : decode 0x15000080 = .error .reservedField := by decide
theorem test_undefined_opcode : decode 0x0C000000 = .error .undefinedOpcode := by decide
theorem test_undefined_ones : decode 0xFFFFFFFF = .error .undefinedOpcode := by decide

/-! ## One word of every command: op, t, u or a, rd, rs, rt, fn (R91, R94) -/

theorem test_decode_nop : decode 0b00000000000000000000000000000000 = .ok .nop := by decide
theorem test_decode_lil : decode 0b00000001000000110000111111011011 = .ok (.lil 3 0x0FDB) := by decide
theorem test_decode_lih : decode 0b00000010000000110100000011001001 = .ok (.lih 3 0x40C9) := by decide
theorem test_decode_csrr : decode 0b00000011001001010000000000001010 = .ok (.csrr 5 2 0x0A) := by decide
theorem test_decode_csrw : decode 0b00000100001001110000000000000001 = .ok (.csrw 2 0x01 7) := by decide
theorem test_decode_ldm : decode 0b00000101000000000100010100000001 = .ok (.ldm 4 0 5 true) := by decide
theorem test_decode_stm : decode 0b00000110000000110000000100100000 = .ok (.stm 3 1 false 2) := by decide
theorem test_decode_cvt : decode 0b00000111000000000010000100000000 = .ok (.cvtS16 2 1) := by decide
theorem test_decode_start : decode 0b00001000000000000000000000000000 = .ok .engStart := by decide
theorem test_decode_stop : decode 0b00001001000000000000000000000000 = .ok .engStop := by decide
theorem test_decode_pause : decode 0b00001010000000000000000000000000 = .ok .engPause := by decide
theorem test_decode_resume : decode 0b00001011000000000000000000000000 = .ok .engResume := by decide
theorem test_decode_setf : decode 0b00010000001000000000010100000000 = .ok (.oscSetf 2 5) := by decide
theorem test_decode_osc_tick : decode 0b00010001001000000011000000000000 = .ok (.oscTick 3 2) := by decide
theorem test_decode_sets : decode 0b00010010001100000000000100100000 = .ok (.smpSets 3 1 2) := by decide
theorem test_decode_smp_trig : decode 0b00010011001000000000000000000000 = .ok (.smpTrig 2) := by decide
theorem test_decode_smp_tick : decode 0b00010100001000000100000000000000 = .ok (.smpTick 4 2) := by decide
theorem test_decode_seal : decode 0b00010101000000000000000001100011 = .ok (.wtSeal 99) := by decide
theorem test_decode_apf : decode 0b00100000000101010010000100000000 = .ok (.apfProc 2 1 5 1) := by decide
theorem test_decode_mute : decode 0b00100001000101010000000000000000 = .ok (.apfMute 1 5) := by decide
theorem test_decode_hpf : decode 0b00100010000100100011000100000000 = .ok (.hpfProc 3 1 2 1) := by decide
theorem test_decode_setc : decode 0b00100011000100100000010100000000 = .ok (.hpfSetc 1 2 5) := by decide
theorem test_decode_dly_in : decode 0b00110000000100000000010100000000 = .ok (.dlyIn 1 5) := by decide
theorem test_decode_dly_out : decode 0b00110001000100000010000000000000 = .ok (.dlyOut 2 1) := by decide
theorem test_decode_sett : decode 0b00110010000100000000010100000000 = .ok (.dlySett 1 5) := by decide
theorem test_decode_rev_in : decode 0b00111000000100000000010100000000 = .ok (.revIn 1 5) := by decide
theorem test_decode_rev_proc : decode 0b00111001000100000010000000000000 = .ok (.revProc 2 1) := by decide
theorem test_decode_rev_rst : decode 0b00111010000100000000000000000000 = .ok (.revRst 1) := by decide
theorem test_decode_seq_tick : decode 0b01000000000100000000000000000000 = .ok (.seqTick 1) := by decide
theorem test_decode_rnds : decode 0b01000001000100000000000000000000 = .ok (.seqRnds 1) := by decide
theorem test_decode_rndr : decode 0b01000010000100000000000000000000 = .ok (.seqRndr 1) := by decide
theorem test_decode_trig : decode 0b01001000000100000000001010001100 = .ok (.voxTrig 1 0x8C false true) := by decide
theorem test_decode_off : decode 0b01001001000100000000000000000000 = .ok (.voxOff 1) := by decide
theorem test_decode_vox_tick : decode 0b01001010000100000100000000000000 = .ok (.voxTick 4 1) := by decide
theorem test_decode_mix_trk : decode 0b01010000000100000000000000000000 = .ok (.mixTrk 1) := by decide
theorem test_decode_pan : decode 0b01010001000100000100001000000000 = .ok (.mixPan 4 1 2) := by decide
theorem test_decode_emit : decode 0b01010010000000000000000000000000 = .ok .mixEmit := by decide
theorem test_decode_mix_cvt : decode 0b01010011000000000010000100000000 = .ok (.mixCvt 2 1) := by decide

/-! ## Registers and memory -/

/-- R120. -/
theorem test_nop : after (exec .nop State.reset) id = some State.reset := by decide
/-- R121. -/
theorem test_lil : after (exec (.lil 3 0x0FDB) State.reset) (fun u => u.getX 3) = some 0x00000FDB := by decide
/-- R122: the low half is kept. -/
theorem test_lih : after (exec (.lih 3 0x40C9) (State.reset.setX 3 0xFFFF0FDB)) (fun u => u.getX 3) = some 0x40C90FDB := by decide
/-- R123: the reset SPS. -/
theorem test_csrr : after (exec (.csrr 5 0 0x0A) State.reset) (fun u => u.getX 5) = some 0x00001588 := by decide
/-- R123, R22: RPOS as {pbuf, slot, pframe}. -/
theorem test_csrr_rpos :
    after (exec (.csrr 5 0 0x83) { State.reset with rpos := ⟨1, 5, 7⟩ }) (fun u => u.getX 5) = some 0x01070005 := by decide
/-- R124: VOL is clamped to 1.0 and CLAMP set. -/
theorem test_csrw : after (exec (.csrw 0 0x00 7) (State.reset.setX 7 0x40000000)) (fun u => ((u.track 0).vol, u.err)) =
    some (0x3F800000, 0x040) := by decide
/-- R33: BPM 125 gives SPS 5292. -/
theorem test_csrw_bpm : after (exec (.csrw 0 0x09 7) (State.reset.setX 7 125)) (fun u => ((u.track 0).bpm, (u.track 0).sps, u.err)) =
    some (125, 5292, 0) := by decide
/-- R125: FT[69] is 440.0. -/
theorem test_ldm : after (exec (.ldm 4 1 1 false) (State.reset.setX 1 69)) (fun u => (u.getX 4, u.getX 1)) =
    some (0x43DC0000, 69) := by decide +kernel
/-- R125: with rd = ra the loaded value wins over the increment. -/
theorem test_ldm_post_same : after (exec (.ldm 1 1 1 true) (State.reset.setX 1 69)) (fun u => u.getX 1) = some 0x43DC0000 := by
  decide +kernel
/-- R126: PN[1][1] becomes -12. -/
theorem test_stm : after (exec (.stm 3 1 false 2) (withX 1 0x11 2 0xFFFFFFF4)) (fun u => (u.memRead .pn 0x11, u.memRead .pn 0x10)) =
    some (0xFFFFFFF4, 0) := by decide +kernel
/-- R126: with rv = ra the value before the increment is stored. -/
theorem test_stm_post_same : after (exec (.stm 2 1 true 1) (State.reset.setX 1 7)) (fun u => (u.memRead .sm 7, u.getX 1)) =
    some (7, 8) := by decide +kernel
/-- R127. -/
theorem test_cvt_low : after (exec (.cvtS16 2 1) (State.reset.setX 1 0x8000)) (fun u => u.getX 2) = some 0xBF800000 := by decide +kernel
/-- R127. -/
theorem test_cvt_high : after (exec (.cvtS16 2 1) (State.reset.setX 1 0x7FFF)) (fun u => u.getX 2) = some 0x3F7FFE00 := by
  decide +kernel

/-! ## Engine -/

/-- R230: both answers 1. -/
theorem test_start : after (exec .engStart (withAnswers [1, 1])) (fun u => (u.status.toWord, u.rpos.toWord, u.err)) =
    some (0x00000035, 0, 0) := by decide +kernel
/-- R230: the device line fails. -/
theorem test_start_fails : after (exec .engStart (withAnswers [0, 1])) (fun u => (u.status.toWord, u.err)) = some (0x00000008, 0x200) := by
  decide +kernel
/-- R231. -/
theorem test_stop : after (exec .engStop (withStatus runStatus)) (fun u => u.status.toWord) = some 0x34 := by decide
/-- R231: BADSTATE in IDLE. -/
theorem test_stop_idle : after (exec .engStop State.reset) (fun u => (u.err, u.errinfo)) = some (0x008, 0x09000000) := by decide
/-- R232. -/
theorem test_pause : after (exec .engPause (withStatus runStatus)) (fun u => u.status.toWord) = some 0x37 := by decide
/-- R233. -/
theorem test_resume : after (exec .engResume (withStatus { runStatus with paused := true })) (fun u => u.status.toWord) = some 0x35 := by
  decide

/-! ## Oscillator and sampler -/

/-- R140: 440 Hz. -/
theorem test_setf : after (exec (.oscSetf 0 1) (State.reset.setX 1 0x43DC0000))
    (fun u => ((u.track 0).ofreq, (u.track 0).oinc, (u.track 0).owti, u.err)) = some (0x43DC0000, 0x3C2377EE, 69, 0) := by decide +kernel
/-- R140: 30000 Hz is clamped. -/
theorem test_setf_clamps : after (exec (.oscSetf 0 1) (State.reset.setX 1 0x46EA6000))
    (fun u => ((u.track 0).ofreq, (u.track 0).oinc, (u.track 0).owti, u.err)) = some (0x46AC4400, 0x3F000000, 127, 0x040) := by
  decide +kernel
/-- R141: the tick of its example. -/
theorem test_osc_tick :
    after (exec (.oscTick 3 0) ((withTrack { Track.reset with oinc := 0x39000000 }).setWordAt .wt 2 0x3F800000))
      (fun u => (u.getX 3, (u.track 0).ophase)) = some (0x3E680000, 0x39000000) := by decide +kernel
/-- R143. -/
theorem test_sets : after (exec (.smpSets 0 1 2) (withX 1 100 2 2)) (fun u => ((u.track 0).sbase, (u.track 0).slen, u.err)) =
    some (100, 2, 0) := by decide
/-- R143: a buffer past the end is shortened. -/
theorem test_sets_clamps : after (exec (.smpSets 0 1 2) (withX 1 262143 2 5)) (fun u => ((u.track 0).sbase, (u.track 0).slen, u.err)) =
    some (262143, 1, 0x040) := by decide
/-- R144. -/
theorem test_smp_trig : after (exec (.smpTrig 0) (withTrack { Track.reset with slen := 2, spos := 2 })) (fun u => (u.track 0).spos) =
    some 0 := by decide
/-- R145: the first sample. -/
theorem test_smp_tick :
    after (exec (.smpTick 4 0) ((withTrack { Track.reset with sbase := 100, slen := 2 }).setWordAt .sm 100 0x3E800000))
      (fun u => (u.getX 4, (u.track 0).spos)) = some (0x3E800000, 1) := by decide +kernel
/-- R145: silence at the end. -/
theorem test_smp_tick_end : after (exec (.smpTick 4 0) ((withTrack { Track.reset with sbase := 100, slen := 2, spos := 2 }).setX 4 9))
    (fun u => (u.getX 4, (u.track 0).spos)) = some (0, 2) := by decide
/-- R146: table 3. -/
theorem test_seal :
    after (exec (.wtSeal 3) (((State.reset.setWordAt .wt 0x3001 0xA).setWordAt .wt 0x3002 0xB).setWordAt .wt 0x3800 0xC))
      (fun u => (u.memRead .wt 0x3000, u.memRead .wt 0x3801, u.memRead .wt 0x3802)) = some (0xC, 0xA, 0xB) := by decide +kernel

/-! ## Filters -/

/-- R161: stage 3, 0.5 in the slot, 0.25 in. -/
theorem test_apf : after (exec (.apfProc 2 0 3 1) ((State.reset.setX 1 0x3E800000).setWordAt .ap (3 * 1024) 0x3F000000))
    (fun u => (u.getX 2, u.memRead .ap (3 * 1024), (u.track 0).apidx[3])) = some (0x3E800000, 0x3F000000, 1) := by decide +kernel
/-- R162: the index stays. -/
theorem test_mute :
    after (exec (.apfMute 0 3)
        (((withTrack (Track.reset.setApidx 3 9)).setWordAt .ap (3 * 1024 + 224) 7).setWordAt .ap (4 * 1024) 8))
      (fun u => (u.memRead .ap (3 * 1024 + 224), u.memRead .ap (4 * 1024), (u.track 0).apidx[3])) = some (0, 8, 9) := by decide +kernel
/-- R165: the first tick of unit 2. -/
theorem test_hpf : after (exec (.hpfProc 2 0 2 1) (State.reset.setX 1 0x3F800000)) (fun u => (u.getX 2, (u.track 0).hpf[2].x1)) =
    some (0x3F7F45CA, 0x3F800000) := by decide +kernel
/-- R166: 1000 Hz. -/
theorem test_setc : after (exec (.hpfSetc 0 2 1) (State.reset.setX 1 0x447A0000)) (fun u => ((u.track 0).hpf[2].cut, (u.track 0).hpf[2].coef)) =
    some (0x447A0000, 0x3F601323) := by decide +kernel
/-- R166: 50000 Hz is clamped. -/
theorem test_setc_clamps : after (exec (.hpfSetc 0 2 1) (State.reset.setX 1 0x47435000))
    (fun u => ((u.track 0).hpf[2].cut, (u.track 0).hpf[2].coef, u.err)) = some (0x46AC4400, 0x3E773F76, 0x040) := by decide +kernel

/-! ## Delay and reverb -/

/-- R177: DLVL 0.5, DSPR 0.25. -/
theorem test_dly_in :
    after (exec (.dlyIn 0 1) ((withTrack { Track.reset with dlvl := 0x3F000000, dspr := 0x3E800000 }).setX 1 0x3F800000))
      (fun u => (u.memRead .dl 0, u.memRead .dr 0)) = some (0x3F000000, 0x3EC00000) := by decide +kernel
/-- R178: the crossfade's results. -/
theorem test_dly_out :
    after (exec (.dlyOut 2 0)
        (((((withTrack { Track.reset with drate := 0x18000, dcnt := 2, dlag := 22049 }).setWordAt .dl 22051 0x3F800000).setWordAt
          .dl 22052 0x40400000).setWordAt .dr 22051 0xBF800000).setWordAt .dr 22052 0x3F000000))
      (fun u => (u.getX 2, u.getX 3, (u.track 0).drp, (u.track 0).dcnt)) = some (0x40000000, 0xBE800000, 0x56238000, 1) := by
  decide +kernel
/-- R178: what the crossfade's tick writes back. -/
theorem test_dly_out_writes :
    after (exec (.dlyOut 2 0)
        (((((withTrack { Track.reset with drate := 0x18000, dcnt := 2, dlag := 22049 }).setWordAt .dl 22051 0x3F800000).setWordAt
          .dl 22052 0x40400000).setWordAt .dr 22051 0xBF800000).setWordAt .dr 22052 0x3F000000))
      (fun u => (u.memRead .dl 1, u.memRead .dr 1, (u.track 0).dwp.val)) = some (0x3F7C6764, 0xBDFC6764, 1) := by decide +kernel
/-- R179: 100000 is halved twice, with CLAMP. -/
theorem test_sett : after (exec (.dlySett 0 1) (State.reset.setX 1 100000))
    (fun u => ((u.track 0).dlag, (u.track 0).drate, (u.track 0).dcnt, u.err)) = some (25000, 0x8000, 5900, 0x040) := by decide +kernel
/-- R179: 0 is raised to 1. -/
theorem test_sett_zero : after (exec (.dlySett 0 1) State.reset)
    (fun u => ((u.track 0).dlag, (u.track 0).drate, (u.track 0).dcnt, u.err)) = some (1, 0x18000, 44098, 0x040) := by decide +kernel
/-- R196: the second REV.IN of its example. -/
theorem test_rev_in : after (exec (.revIn 0 1) ((withTrack { Track.reset with rbus := 0x3F800000 }).setX 1 0x3F800000))
    (fun u => (u.track 0).rbus) = some 0x40000000 := by decide +kernel
/-- R197: tick 0 of its example. -/
theorem test_rev_proc : after (exec (.revProc 2 0) (withTrack { Track.reset with rbus := 0x3F800000 }))
    (fun u => (u.getX 2, u.getX 3, (u.track 0).rbus, (u.track 0).apidx[7])) = some (0x3F800000, 0x3F800000, 0, 1) := by decide +kernel
/-- R198. -/
theorem test_rev_rst :
    after (exec (.revRst 0) ((withTrack { Track.reset.setApidx 7 9 with rbus := 5 }).setWordAt .ap (7 * 1024 + 247) 3))
      (fun u => (u.memRead .ap (7 * 1024 + 247), (u.track 0).apidx[7], (u.track 0).rbus)) = some (0, 0, 0) := by decide +kernel

/-! ## Sequencer and voice -/

/-- R206: the first tick of its example. -/
theorem test_seq_tick :
    after (exec (.seqTick 0) (((State.reset.setByteAt .pn 0 12).setByteAt .pp 0 0).setByteAt .pa 0 1))
      (fun u => ((u.track 0).fcur, (u.track 0).amp, (u.track 0).gate, (u.track 0).step, (u.track 0).scnt)) =
    some (0x4382D013, 0x3F800000, true, 1, 5511) := by decide +kernel
/-- R206: slot 15 wraps to 0; a paused slot ends the note. -/
theorem test_seq_tick_wraps : after (exec (.seqTick 0) (withTrack { Track.reset with step := 15, gate := true }))
    (fun u => ((u.track 0).gate, (u.track 0).step, (u.track 0).scnt)) = some (false, 0, 5511) := by decide +kernel
/-- R207: ROOT 48, the ends of the draw in slots 0 and 15. -/
theorem test_rnds : after (exec (.seqRnds 0) (withAnswers [0, 1, 2, 3, 4, 5, 6, 7, 8, 9, 10, 11, 12, 13, 14, 127]))
    (fun u => (u.memRead .pn 0, u.memRead .pn 15)) = some (0xFFFFFFD0, 79) := by decide +kernel
/-- R208: the draws of step 0 in the order pause, accent, slide. -/
theorem test_rndr : after (exec (.seqRndr 0) (withAnswers ([0, 1, 1] ++ List.replicate 45 0)))
    (fun u => (u.memRead .pp 0, u.memRead .pa 0, u.memRead .ps 0, u.memRead .pp 15)) = some (0, 1, 1, 0) := by decide +kernel
/-- R209: note 12 with accent. -/
theorem test_trig : after (exec (.voxTrig 0 12 true false) State.reset)
    (fun u => ((u.track 0).ofreq, (u.track 0).oinc, (u.track 0).owti, (u.track 0).amp, (u.track 0).gate)) =
    some (0x4382D013, 0x3BC265DC, 60, 0x3F800000, true) := by decide +kernel
/-- R209: then note 15 with slide. -/
theorem test_trig_slide : after (exec (.voxTrig 0 15 false true) (withTrack { Track.reset with gate := true, fcur := 0x4382D013 }))
    (fun u => ((u.track 0).ftgt, (u.track 0).gcnt, (u.track 0).ginc, (u.track 0).amp, (u.track 0).fcur)) =
    some (0x439B9041, 1024, 0x3D460170, 0x3F000000, 0x4382D013) := by decide +kernel
/-- R210. -/
theorem test_off : after (exec (.voxOff 0) (withTrack { Track.reset with gate := true, fcur := 5 }))
    (fun u => ((u.track 0).gate, (u.track 0).fcur)) = some (false, 5) := by decide

/-- Track 0 after the first trigger of R209 with the sends of R214's example. -/
def triggered : Track :=
  { Track.reset with
    dsend := 0x3F000000, rsend := 0x3E800000, gate := true, amp := 0x3F800000, fcur := 0x4382D013, ftgt := 0x4382D013
    ofreq := 0x4382D013, oinc := 0x3BC265DC, owti := 60 }

/-- The four samples of table 60 that its first tick reads, each 0.5. -/
def voiced (tr : Track) : State :=
  ((((withTrack tr).setWordAt .wt (60 * 4096 + 12) 0x3F000000).setWordAt .wt (60 * 4096 + 13) 0x3F000000).setWordAt
    .wt (60 * 4096 + 14) 0x3F000000).setWordAt .wt (60 * 4096 + 15) 0x3F000000

/-- R214: the first tick of its example. -/
theorem test_vox_tick : after (exec (.voxTick 4 0) (voiced triggered))
    (fun u => (u.getX 4, u.getX 5, u.getX 6, u.getX 7, (u.track 0).ophase)) =
    some (0x3EFF45CA, 0x3EFF45CA, 0x3E7F45CA, 0x3DFF45CA, 0x3BC265DC) := by decide +kernel
/-- R213: the first tick of the ramp. -/
theorem test_vox_tick_glides :
    after (exec (.voxTick 14 0) (voiced { triggered with ftgt := 0x439B9041, gcnt := 1024, ginc := 0x3D460170 }))
      (fun u => ((u.track 0).fcur, (u.track 0).gcnt, (u.track 0).oinc)) = some (0x4382D643, 1023, 0x3BC26F0E) := by decide +kernel

/-! ## Mixer -/

/-- R226: PAN and VOL 0.5. -/
theorem test_pan :
    after (exec (.mixPan 4 0 2) (((withTrack { Track.reset with pan := 0x3F000000, vol := 0x3F000000 }).setX 2 0x3F800000).setX 3 0x3F800000))
      (fun u => (u.getX 4, u.getX 5)) = some (0x3E800000, 0x3F000000) := by decide +kernel
/-- R97: registers wrap past X15, sources are read before results are written. -/
theorem test_pan_overlap : after (exec (.mixPan 15 0 15) (withX 15 0x3F800000 0 0x40000000)) (fun u => (u.getX 15, u.getX 0)) =
    some (0x3F800000, 0x40000000) := by decide +kernel
/-- R227: the example, with no sends. -/
theorem test_mix_trk : after (exec (.mixTrk 0) (voiced { triggered with dsend := 0, rsend := 0 }))
    (fun u => (u.maccl, u.maccr, (u.track 0).dwp.val, (u.track 0).apidx[0], (u.track 0).apidx[7])) =
    some (0x3EFF45CA, 0x3EFF45CA, 1, 1, 1) := by decide +kernel
/-- R228. -/
theorem test_mix_cvt : after (exec (.mixCvt 2 1) (State.reset.setX 1 0xBF800000)) (fun u => u.getX 2) = some 0xFFFF8001 := by decide +kernel
/-- R229: the frame of its example. -/
theorem test_emit : after (exec .mixEmit { State.reset with maccl := 0x3EFF45CA, maccr := 0x3EFF45CA })
    (fun u => (u.memRead .pb 0, u.maccl, u.rpos.pframe.val)) = some (0x3FD03FD0, 0, 1) := by decide +kernel
/-- R229: left low, right high. -/
theorem test_emit_order : after (exec .mixEmit { State.reset with maccl := 0x3F000000, maccr := 0xBF800000 })
    (fun u => (u.memRead .pb 0, u.mem.byte (Space.pb.cell 0), u.mem.byte (Space.pb.cell 0 + 2))) = some (0x80013FFF, 0xFF, 0x01) := by
  decide +kernel

/-! ## Agent, reset and the port -/

/-- R237: a paused agent stands still at the boundary. -/
theorem test_agent_waits : after (agentTurn (withStatus { runStatus with paused := true })) id =
    some (withStatus { runStatus with paused := true }) := by decide
/-- R240: a stopped run is disposed. -/
theorem test_agent_disposes : after (agentTurn (withStatus { runStatus with running := false })) (fun u => (u.status.toWord, u.events)) =
    some (0, [.dispose 0 true]) := by decide
/-- R237: away from the boundary the slot runs although a stop was requested. -/
theorem test_agent_finishes :
    after (agentTurn { withStatus { runStatus with running := false } with rpos := ⟨0, 0, 1⟩ }) (fun u => u.rpos.slot.val) = some 2 := by
  decide +kernel
/-- R90, R95: an illegal word at the port. -/
theorem test_port_illegal : after (step (State.reset.withFetchWord 32 0xFFFFFFFF)) (fun u => (u.err, u.errinfo)) =
    some (0x001, 0xFFFFFFFF) := by decide
/-- R290. -/
theorem test_reset : after (step (withTurns [.reset] (withStatus runStatus))) id = some State.reset := by decide
/-- R263: STM PB while ACTIVE is ACCESS, STM WT out of range while ACTIVE is BUSY. -/
theorem test_check_order :
    after (exec (.stm 10 1 false 2) (withStatus runStatus)) (fun u => u.err) = some 0x010 ∧
    after (exec (.stm 0 1 false 2) ((withStatus runStatus).setX 1 0xFFFFFFFF)) (fun u => u.err) = some 0x004 := by decide

/-! ## States that meet the hypotheses of the obligations, clause by clause -/

/-- A step of a test state answers. -/
theorem next_of_after {r : Result} (h : (after r fun _ => ()).isSome = true) : ∃ u, r = .next u := by
  cases r with
  | next u => exact ⟨u, rfl⟩
  | fault e => cases h
  | refused e => cases h

theorem witness_DecodeEncode : WellFormed (.csrr 15 0 0xFF) = true ∧ WellFormed (.csrw 15 0x7F 15) = true := by decide
theorem witness_EncodeDecode : decode 0x0305000A = .ok (.csrr 5 0 0x0A) := by decide

theorem witness_WordIsCommandOrIllegal :
    ((∃ j, (0x0305000A : Word) &&& (rowOf j).mask = (rowOf j).pattern) ∧ globalCsrWithTrack 0x0305000A = false) ∧
    (¬∃ j, (0x0C000000 : Word) &&& (rowOf j).mask = (rowOf j).pattern) ∧ globalCsrWithTrack 0x03150080 = true := by
  refine ⟨⟨⟨.csrr 5 0 0x0A, by decide⟩, by decide⟩, ?_, by decide⟩
  rintro ⟨j, h⟩
  have none : ∀ r : OpcodeRow, r = rowOf j → (0x0C000000 : Word) &&& r.mask ≠ r.pattern := by
    intro r hr
    cases j <;> (subst hr; dsimp only [rowOf]; decide)
  exact none _ rfl h

theorem witness_StepRunsCommand :
    (withTurns [.command 0x00000000] State.reset).inputs.turns = .command 0x00000000 :: [] ∧ decode 0x00000000 = .ok .nop := by decide

theorem witness_FirstFailingCheckRejects :
    decode 0xFFFFFFFF = .error .undefinedOpcode ∧
    Rejected (.csrr 5 1 0x80) State.reset .illcmd ∧ Rejected (.apfProc 0 4 0 0) State.reset .badidx ∧
    Rejected (.apfProc 0 3 8 0) State.reset .badidx ∧ Rejected (.csrr 0 0 0x8E) State.reset .badidx ∧
    Rejected (.stm 9 0 false 0) (withStatus runStatus) .busy ∧ Rejected .engStop State.reset .badstate ∧
    Rejected .engStart (withStatus runStatus) .badstate ∧ Rejected (.stm 10 0 false 0) (withStatus runStatus) .access ∧
    Rejected (.csrw 3 0x0A 0) State.reset .access ∧
    (∀ c, ¬Rejected .nop State.reset c) ∧ (after (exec .nop State.reset) fun _ => ()).isSome = true := by
  refine ⟨by decide, ?_, ⟨by decide, by decide⟩, ⟨by decide, by decide⟩, ⟨by decide, by decide⟩,
    ⟨by decide, by decide, by decide, by decide⟩, ?_, ?_, ⟨by decide, by decide, by decide⟩,
    ⟨by decide, by decide, by decide⟩, ?_, by decide⟩
  · show WellFormed _ = false; decide
  · show stateRefuses _ _ = true; decide
  · show stateRefuses _ _ = true; decide
  intro c
  cases c <;> simp [Rejected, WellFormed, indexMissing, directCommand, stateRefuses, targetReadOnly, AddressOutside]

/-- The first address past FT. -/
theorem witness_FirstFailingCheckRejects_memrange : Rejected (.ldm 0 1 1 false) (State.reset.setX 1 128) .memrange := by
  refine ⟨by decide, by decide, by decide, ?_⟩
  intro sp h
  have : sp = .ft := by
    have e : spaceOf 1 = some Space.ft := by decide
    rw [e] at h
    exact (Option.some.inj h).symm
  subst this
  simp [ElementOf]

theorem witness_AgentWaitsOrDisposes :
    ((withTurns [.agent] State.reset).inputs.turns = .agent :: [] ∧ (withTurns [.agent] State.reset).status.active = false) ∧
    ((withStatus { runStatus with paused := true }).rpos.pframe = 0 ∧ (withStatus { runStatus with paused := true }).rpos.slot = 0 ∧
      (withStatus { runStatus with paused := true }).status.running = true ∧
      (withStatus { runStatus with paused := true }).status.paused = true) ∧
    ((withStatus { runStatus with running := false }).status.active = true ∧
      (withStatus { runStatus with running := false }).rpos.pframe = 0 ∧ (withStatus { runStatus with running := false }).rpos.slot = 0 ∧
      (withStatus { runStatus with running := false }).status.running = false) := by decide

theorem witness_AgentSlotIsCommand : ∀ q : Fin Config.NSLOT,
    { withStatus runStatus with rpos := ⟨0, 0, q⟩ }.status.active = true ∧
    ¬({ withStatus runStatus with rpos := ⟨0, 0, q⟩ }.rpos.pframe = 0 ∧ { withStatus runStatus with rpos := ⟨0, 0, q⟩ }.rpos.slot = 0 ∧
      ({ withStatus runStatus with rpos := ⟨0, 0, q⟩ }.status.running = false ∨
        { withStatus runStatus with rpos := ⟨0, 0, q⟩ }.status.paused = true)) ∧
    (after (exec (scheduled q) { withStatus runStatus with rpos := ⟨0, 0, q⟩ }.direct) fun _ => ()).isSome = true := by decide +kernel

/-- Each case of RPOS: the agent absent, paused, disposing, in a slot that is not the last, at the last slot of a frame and of a
buffer. -/
theorem witness_AgentStaysInItsPart :
    (after (agentTurn State.reset) fun u => u.rpos) = some ⟨0, 0, 0⟩ ∧
    (after (agentTurn (withStatus { runStatus with paused := true })) fun u => u.rpos) = some ⟨0, 0, 0⟩ ∧
    (after (agentTurn (withStatus { runStatus with running := false })) fun u => u.rpos) = some ⟨0, 0, 0⟩ ∧
    (after (agentTurn { withStatus runStatus with rpos := ⟨0, 0, 7⟩ }) fun u => u.rpos) = some ⟨0, 0, 8⟩ ∧
    (after (agentTurn { withStatus runStatus with rpos := ⟨0, 1022, 8⟩ }) fun u => u.rpos) = some ⟨0, 1023, 0⟩ ∧
    (1023 : Fin Config.BUFLEN).val = 1023 := by decide +kernel

theorem witness_ResetFromAnyState : (withTurns [.reset] (withStatus runStatus)).inputs.turns = .reset :: [] := by decide

theorem witness_ResetMemory : ElementOf .wt (127 * 4096 + 2050) ∧ ElementOf .ap ((3 * 8 + 7) * 1024 + 247) ∧ ElementOf .pp 63 :=
  ⟨⟨127, 2050, by decide, by decide, rfl⟩, ⟨3, 7, 247, by decide, by decide, rfl⟩, ⟨3, 15, by decide, by decide, rfl⟩⟩

theorem witness_ComparisonsAndClamps :
    IsFinite fHalf ∧ IsFinite fOne ∧ isNaN canonicalNaN = true ∧ flt fMinusOne 0 = true ∧
    (flt fTwo 0 = false ∧ flt fOne fTwo = true) ∧ (isNaN fHalf = false ∧ flt fHalf 0 = false ∧ flt fOne fHalf = false) ∧
    fle 0 fOne = true ∧ 1 ≤ 65535 := by decide

theorem witness_SpecialResults :
    isNaN canonicalNaN = true ∧ isInf plusInf = true ∧ isInf 0xFF800000 = true ∧ isZero 0 = true ∧ isZero 0x80000000 = true ∧
    IsFinite fOne ∧ isZero fOne = false ∧ IsFinite 0x80000001 ∧ isZero 0x80000001 = false := by
  decide

/-- A product and a quotient that underflow keep their sign (R9). -/
theorem test_underflow_sign : fmul 0x80000001 fHalf = 0x80000000 ∧ fdiv 0x80000001 0xC0000000 = 0 := by decide +kernel

/-- The largest finite value. -/
theorem valueOf_largest : valueOf 0x7F7FFFFF = 2 ^ 128 - 2 ^ 104 := by
  have h1 : fsigned 0x7F7FFFFF = 16777215 := by decide
  have h2 : fscale 0x7F7FFFFF = 104 := by decide
  unfold valueOf
  rw [h1, h2]
  norm_num

/-- 1.0. -/
theorem valueOf_one : valueOf fOne = 1 := by
  have h1 : fsigned fOne = 8388608 := by decide
  have h2 : fscale fOne = -23 := by decide
  unfold valueOf
  rw [h1, h2]
  norm_num

theorem witness_RoundedOnceToNearestEven :
    IsFinite fOne ∧ |valueOf fOne + valueOf fOne| < 2 ^ 128 - 2 ^ 103 ∧ |valueOf fOne * valueOf fOne| < 2 ^ 128 - 2 ^ 103 ∧
    valueOf fOne ≠ 0 ∧ |valueOf fOne / valueOf fOne| < 2 ^ 128 - 2 ^ 103 ∧ IsFinite 0x7F7FFFFF ∧
    |valueOf fOne - valueOf fOne| < 2 ^ 128 - 2 ^ 103 ∧
    2 ^ 128 - 2 ^ 103 ≤ |valueOf 0x7F7FFFFF + valueOf 0x7F7FFFFF| ∧ 2 ^ 128 - 2 ^ 103 ≤ |valueOf 0x7F7FFFFF * valueOf 0x7F7FFFFF| := by
  rw [valueOf_largest, valueOf_one]
  refine ⟨by decide, ?_, ?_, ?_, ?_, by decide, ?_, ?_, ?_⟩ <;> norm_num [abs_of_pos]

/-- A difference that overflows. -/
theorem witness_RoundedOnceToNearestEven_difference :
    IsFinite 0xFF7FFFFF ∧ 2 ^ 128 - 2 ^ 103 ≤ |valueOf 0x7F7FFFFF - valueOf 0xFF7FFFFF| := by
  have h1 : fsigned 0xFF7FFFFF = -16777215 := by decide
  have h2 : fscale 0xFF7FFFFF = 104 := by decide
  have h : valueOf 0xFF7FFFFF = -(2 ^ 128 - 2 ^ 104) := by unfold valueOf; rw [h1, h2]; norm_num
  rw [valueOf_largest, h]
  refine ⟨by decide, ?_⟩
  norm_num [abs_of_pos]

/-- A quotient that overflows. -/
theorem witness_RoundedOnceToNearestEven_quotient :
    IsFinite 0x7F7FFFFF ∧ IsFinite fHalf ∧ valueOf fHalf ≠ 0 ∧ 2 ^ 128 - 2 ^ 103 ≤ |valueOf 0x7F7FFFFF / valueOf fHalf| := by
  have h1 : fsigned fHalf = 8388608 := by decide
  have h2 : fscale fHalf = -24 := by decide
  have h : valueOf fHalf = 1 / 2 := by unfold valueOf; rw [h1, h2]; norm_num
  rw [valueOf_largest, h]
  refine ⟨by decide, by decide, ?_, ?_⟩ <;> norm_num [abs_of_pos]

theorem witness_Conversions : (2 ^ 128 - 2 ^ 104 : Int).natAbs < 2 ^ 128 - 2 ^ 103 ∧ (-2 ^ 24 : Int).natAbs ≤ 2 ^ 24 ∧ IsFinite fOne := by decide

theorem witness_PcmConversion :
    isNaN (fmul canonicalNaN f32767) = true ∧ fle f32767 (fmul fOne f32767) = true ∧ fle (fmul 0xC0000000 f32767) fMinus32768 = true ∧
    (fle fMinus32768 (fmul fHalf f32767) = true ∧ fle (fmul fHalf f32767) f32767 = true) := by decide +kernel

/-- The sign clauses of the conversion: a value above and a value below zero. -/
theorem witness_PcmConversion_signs : 0 ≤ valueOf (fmul fHalf f32767) ∧ valueOf (fmul fMinusOne f32767) ≤ 0 := by
  have a : fsigned (fmul fHalf f32767) = 16776704 := by decide +kernel
  have b : fsigned (fmul fMinusOne f32767) = -16776704 := by decide +kernel
  unfold valueOf
  rw [a, b]
  constructor
  · positivity
  · have : (0 : ℚ) < 2 ^ fscale (fmul fMinusOne f32767) := by positivity
    push_cast
    linarith [mul_pos (show (0 : ℚ) < 16776704 by norm_num) this]

theorem witness_NopAndLoadImmediate : (1 : BitVec 24) ≠ 0 ∧ ((0x02 : BitVec 8) = 0x01 ∨ (0x02 : BitVec 8) = 0x02) ∧ (15 : BitVec 4) ≠ 0 := by
  decide

theorem witness_LdmLoadsElement : (10 : BitVec 4).toNat = Space.pb.index ∧ ElementOf .pb ((State.reset.setX 1 2047).getX 1).toNat ∧
    (1 : Reg) ≠ 0 :=
  ⟨by decide, ⟨1, 1023, by decide, by decide, by decide⟩, by decide⟩

theorem witness_StmStoresElement :
    ((0 : BitVec 4).toNat = Space.wt.index ∧ Space.wt ≠ .pb ∧ ElementOf .wt ((State.reset.setX 1 2050).getX 1).toNat ∧
      (State.reset.setX 1 2050).status.active = false) ∧
    ((6 : BitVec 4).toNat = Space.ps.index ∧ Space.ps ≠ .pb ∧ ElementOf .ps (((withStatus runStatus).setX 1 63).getX 1).toNat) ∧
    ElementOf .ps 62 ∧ 62 ≠ (((withStatus runStatus).setX 1 63).getX 1).toNat :=
  ⟨⟨by decide, by decide, ⟨0, 2050, by decide, by decide, by decide⟩, rfl⟩,
    ⟨by decide, by decide, ⟨3, 15, by decide, by decide, by decide⟩⟩, ⟨3, 14, by decide, by decide, rfl⟩, by decide⟩

/-- The mode that the unit commands' statements ask for. -/
theorem witness_direct_mode : State.reset.status.active = false := rfl

theorem witness_SeekFindsLargestTable :
    State.reset.status.active = false ∧ State.reset.TableIncreasing ∧
    (after (exec (.oscSetf (trackField 0) 1) (State.reset.setX 1 0x43DC0000)) fun _ => ()).isSome = true ∧
    (after (exec (.oscSetf (trackField 3) 2) (State.reset.setX 1 0x43DC0000)) fun _ => ()).isSome = true ∧
    fle 0 0x43DC0000 = true := by decide +kernel

theorem witness_OscTickInterpolates :
    State.reset.status.active = false ∧ (State.reset.track 0).OscLegal ∧
    (withTrack { Track.reset with ofreq := f22050, oinc := fHalf, ophase := 0x3F7FFFFF }).status.active = false ∧
    ((withTrack { Track.reset with ofreq := f22050, oinc := fHalf, ophase := 0x3F7FFFFF }).track 0).OscLegal := by decide +kernel

/-- With phase and increment 0 the fraction is 0, and with a body sample 1.0 there the coefficients are finite. -/
theorem witness_OscTickInterpolates_at_zero :
    (after (exec (.oscTick 3 (trackField 0)) (State.reset.setWordAt .wt 1 fOne)) fun u => u.getX 3) = some fOne ∧
    valueOf 0 = 0 ∧ IsFinite (fmul 0x3F000000 (fsub 0 0)) ∧
    IsFinite (fsub (fadd (fsub 0 (fmul 0x40200000 fOne)) (fmul 0x40000000 0)) (fmul 0x3F000000 0)) ∧
    IsFinite (fadd (fmul 0x3F000000 (fsub 0 0)) (fmul 0x3FC00000 (fsub fOne 0))) ∧ IsFinite fOne ∧ isZero fOne = false := by
  refine ⟨by decide +kernel, ?_, by decide +kernel⟩
  have h : fsigned 0 = 0 := by decide
  unfold valueOf
  rw [h]
  simp

/-- Where the pseudocode of R142 rounds, four equal samples need not give themselves (assumption 19). -/
theorem test_catmullRom_equal_samples :
    catmullRom 0x3F8051F2 0x3F8051F2 0x3F8051F2 0x3F8051F2 0x3F400000 = 0x3F8051F3 := by decide +kernel

/-- A sampler at the last element of SM. -/
def lastSample : Track := { Track.reset with kind := .sampler, sbase := 262143, slen := 1 }

theorem witness_SamplerPlaysOnce :
    (withTrack lastSample).status.active = false ∧ ((withTrack lastSample).track 0).SamplerLegal ∧
    ((withTrack lastSample).track 0).spos.toNat < ((withTrack lastSample).track 0).slen.toNat ∧
    (State.reset.track 0).slen.toNat ≤ (State.reset.track 0).spos.toNat := by decide

theorem witness_ApfProcFiltersOneSlot :
    (withTrack (Track.reset.setApidx 4 578)).status.active = false ∧
    ((withTrack (Track.reset.setApidx 4 578)).track 0).apidx[4].toNat < Config.REVLEN 4 := by decide

theorem witness_ApfDrainsByHalves :
    State.reset.status.active = false ∧ (State.reset.track 3).ReverbLegal ∧ State.reset.getX 1 = 0 ∧ (2 : Reg) ≠ 1 ∧
    225 ≤ Config.REVLEN 3 := by decide

theorem witness_DelayReadsThenWrites :
    State.reset.status.active = false ∧
    ((State.reset.track 0).drp.toNat + (State.reset.track 0).drate.toNat) % (44100 * 65536) % 65536 = 0 ∧
    (Track.reset.drp.toNat + ({ Track.reset with drate := 0x18000, dcnt := 1 } : Track).drate.toNat) % (44100 * 65536) % 65536 ≠ 0 := by
  decide

/-- A time of 25000 lengthens the lag, 0 shortens it, 22050 leaves it. -/
theorem witness_SettStartsRetiming :
    currentLag (State.reset.track 0) = 22050 * 65536 ∧ 22050 * 65536 < 25000 * 65536 ∧ 1 * 65536 < currentLag (State.reset.track 0) ∧
    44099 < 100000 / 2 ^ (2 - 1) := by decide

theorem witness_RetimingEndsOnTime :
    State.reset.status.active = false ∧ (State.reset.track 0).DelayLegal ∧
    (after (exec (.dlySett (trackField 0) 1) (State.reset.setX 1 44099)) fun u => (u.track 0).dcnt) = some 44098 ∧
    (after (exec (.dlySett (trackField 0) 1) State.reset) fun u => ((u.track 0).drate, (u.track 0).dcnt)) = some (0x18000, 44098) := by
  decide +kernel

theorem witness_ReverbRunsBothChains :
    State.reset.status.active = false ∧ (State.reset.track 0).ReverbLegal ∧
    ({ Track.reset with apidx := #v[555, 440, 340, 224, 578, 463, 363, 247] } : Track).ReverbLegal := by decide

theorem witness_SeqTickPlaysSlots :
    State.reset.status.active = false ∧ (State.reset.track 0).scnt = 0 ∧ State.reset.memRead .pp 0 = 1 ∧
    (State.reset.setByteAt .pp 0 0).memRead .pp 0 = 0 ∧ 0 < (State.reset.track 0).sps.toNat ∧ 0 < ((withTrack { Track.reset with scnt := 1 }).track 0).scnt.toNat := by
  decide +kernel

theorem witness_BoundariesEverySpsTicks :
    State.reset.status.active = false ∧ (State.reset.track 0).scnt = 0 ∧ (State.reset.track 0).step = 0 ∧
    0 < (State.reset.track 0).sps.toNat := by decide

theorem witness_TriggerSlidesOrRestarts :
    State.reset.status.active = false ∧ (State.reset.track 0).gate = false ∧
    ((withTrack { Track.reset with gate := true }).track 0).gate = true := by decide

theorem witness_VoiceTickMakesFourResults :
    (withTrack lastSample).status.active = false ∧ ((withTrack lastSample).track 0).OscLegal ∧
    ((withTrack lastSample).track 0).SamplerLegal ∧ ((withTrack lastSample).track 0).kind = .sampler ∧
    ((withTrack lastSample).track 0).gcnt = 0 ∧ (State.reset.track 1).kind = .wavetable ∧ (State.reset.track 1).OscLegal ∧
    (State.reset.track 1).SamplerLegal ∧ ((withTrack { Track.reset with gcnt := 1 }).track 0).gcnt ≠ 0 ∧
    ((withTrack { Track.reset with gcnt := 1 }).track 0).OscLegal ∧ ((withTrack { Track.reset with gcnt := 1 }).track 0).SamplerLegal := by
  decide +kernel

theorem witness_GlideReachesTarget :
    (withTrack { Track.reset with gcnt := 65535 }).status.active = false ∧
    ((withTrack { Track.reset with gcnt := 65535 }).track 0).OscLegal ∧
    ((withTrack { Track.reset with gcnt := 65535 }).track 0).SamplerLegal ∧
    ((withTrack { Track.reset with gcnt := 65535 }).track 0).gcnt ≠ 0 := by decide +kernel

theorem witness_MixTrkIsTheChain : State.reset.status.active = false ∧ State.reset.UnitsLegal := by decide +kernel

theorem witness_EmitStoresFrame :
    { State.reset with rpos := ⟨1, 1022, 3⟩ }.status.active = false ∧ { State.reset with rpos := ⟨1, 1022, 3⟩ }.rpos.pframe.val < 1023 := by
  decide

theorem witness_LastEmitHandsOff :
    { State.reset with rpos := ⟨1, 1023, 3⟩ }.status.active = false ∧ { State.reset with rpos := ⟨1, 1023, 3⟩ }.rpos.pframe.val = 1023 := by
  decide

theorem witness_StartInitialisesAndRuns :
    (withAnswers [1, 1]).status.active = false ∧ (withAnswers [1, 1]).status.fatal = false ∧ (withAnswers [1, 1]).nextBit = true ∧
    (withAnswers [1, 1]).afterDraw.nextBit = true := by decide

theorem witness_FailedStartIsFatal :
    (withAnswers [0, 1]).status.active = false ∧ (withAnswers [0, 1]).status.fatal = false ∧ (withAnswers [0, 1]).nextBit = false ∧
    (withAnswers [1, 0]).afterDraw.nextBit = false := by decide

theorem witness_FlagCommandsChangeOneFlag : (withStatus runStatus).status.running = true ∧ State.reset.status.active = false := by decide

theorem witness_EngineStatesAndTransitions :
    (withStatus runStatus).status.Legal ∧ (withStatus { runStatus with paused := true }).status.Legal ∧
    (withStatus ⟨false, false, false, true, false, false⟩).status.Legal ∧
    (after (step (withTurns [.command 0x0A000000] (withStatus runStatus))) fun u => u.status.paused) = some true ∧
    (after (step (withTurns [.command 0x0B000000] (withStatus { runStatus with paused := true }))) fun u => u.status.paused) = some false ∧
    (after (step (withTurns [.command 0x09000000] (withStatus runStatus))) fun u => u.status.running) = some false ∧
    (after (step (withStatus { runStatus with running := false })) fun u => u.status.active) = some false ∧
    (after (step (withTurns [.command 0x08000000] (withAnswers [1, 1]))) fun u => u.status.active) = some true ∧
    (after (step (withTurns [.command 0x08000000] (withAnswers [0, 0]))) fun u => u.status.fatal) = some true := by decide +kernel

/-- The invariants hold of the reset state, and a step of it answers. -/
theorem witness_invariants :
    (∀ k, (State.reset.track k).OscLegal) ∧ (∀ k, (State.reset.track k).DelayLegal) ∧
    (∀ k, (State.reset.track k).ConfigLegal ∧ (State.reset.track k).SamplerLegal ∧ (State.reset.track k).ReverbLegal ∧
      (State.reset.track k).FilterLegal) ∧ State.reset.mem.wf ∧ State.reset.UnitsLegal ∧
    (after (step State.reset) fun _ => ()).isSome = true := by
  refine ⟨by decide +kernel, by decide +kernel, ⟨?_, ?_⟩⟩
  · decide +kernel
  · exact ⟨⟨List.Pairwise.nil, fun c hc => by cases hc⟩, by decide +kernel, by decide⟩

/-- Delays with a retiming of one half slot and of the longest count in flight, either way, meet the lag invariant; the phase sum
reaches 1.5 at its largest. -/
theorem witness_DelayInvariant_retiming :
    ({ Track.reset with drp := 0x5621_8000, drate := 0x18000, dcnt := 1 } : Track).DelayLegal ∧
    ({ Track.reset with drp := 0x5622_8000, drate := 0x8000, dcnt := 1 } : Track).DelayLegal ∧
    ({ Track.reset with drp := 0x0001_0000, dlag := 1, drate := 0x18000, dcnt := 88196 } : Track).DelayLegal ∧
    ({ Track.reset with drp := 0xAC43_0000, dlag := 44099, drate := 0x8000, dcnt := 88196 } : Track).DelayLegal := by decide +kernel

theorem witness_OscillatorInvariant_wrap :
    ({ Track.reset with ofreq := f22050, oinc := fHalf, ophase := 0x3F7FFFFF } : Track).OscLegal ∧
    fle fOne (fadd 0x3F7FFFFF fHalf) = true := by decide +kernel

/-- Reset memory lists nothing. -/
theorem witness_MemoryInvariant : State.reset.ElementsOnly := by
  intro c hc
  cases hc

end Sys2Proof.Tests
end

section
/-! SUPPORT. Binary32 patterns: what the fields of a pattern are as numbers, what flipping the sign and building a pattern do to
them, and the order of the values the patterns stand for (rules R8 and R10). -/

namespace Sys2Proof.Laws

open Sys2Proof Sys2Proof.Machine

/-! ## Fields -/

/-- The lower 31 bits of a pattern as a number; patterns of one sign are in the order of this number. -/
def magnitude (a : F32) : Nat := a.toNat % 2 ^ 31

theorem magnitude_lt (a : F32) : magnitude a < 2 ^ 31 := Nat.mod_lt _ (by norm_num)

theorem fexpo_eq (a : F32) : fexpo a = magnitude a / 2 ^ 23 := by
  simp only [fexpo, magnitude, BitVec.extractLsb'_toNat, Nat.shiftRight_eq_div_pow]
  omega

theorem ffrac_eq (a : F32) : ffrac a = magnitude a % 2 ^ 23 := by
  simp only [ffrac, magnitude, BitVec.extractLsb'_toNat, Nat.shiftRight_eq_div_pow]
  omega

theorem fsign_eq (a : F32) : fsign a = decide (2 ^ 31 ≤ a.toNat) := BitVec.msb_eq_decide a

theorem forder_eq (a : F32) : forder a = if fsign a then -(magnitude a : Int) else magnitude a := by
  simp [forder, magnitude, BitVec.extractLsb'_toNat]

/-- `forder` of the finite patterns lies strictly between the two infinities'. -/
theorem isFinite_iff_forder (a : F32) : IsFinite a ↔ -0x7F800000 < forder a ∧ forder a < 0x7F800000 := by
  have := magnitude_lt a
  simp only [IsFinite, fexpo_eq, forder_eq]
  split <;> omega

theorem isFinite_iff (a : F32) : IsFinite a ↔ magnitude a < 0x7F800000 := by
  have := magnitude_lt a
  simp only [IsFinite, fexpo_eq]
  omega

theorem isZero_iff (a : F32) : isZero a = true ↔ magnitude a = 0 := by
  simp only [isZero, fexpo_eq, ffrac_eq, Bool.and_eq_true, beq_iff_eq]
  omega

theorem fmant_eq_zero_iff (a : F32) : fmant a = 0 ↔ isZero a = true := by
  simp only [fmant, isZero, Bool.and_eq_true, beq_iff_eq]
  split <;> simp_all

theorem fmant_lt (a : F32) : fmant a < 2 ^ 24 := by
  simp only [fmant, ffrac_eq]
  split <;> omega

/-! ## The kinds of patterns exclude each other -/

theorem isNaN_of_isFinite {a : F32} (h : IsFinite a) : isNaN a = false := by simp [isNaN, h]

theorem isInf_of_isFinite {a : F32} (h : IsFinite a) : isInf a = false := by simp [isInf, h]

theorem isNaN_of_isInf {a : F32} (h : isInf a = true) : isNaN a = false := by simp_all [isInf, isNaN]

theorem isZero_of_isInf {a : F32} (h : isInf a = true) : isZero a = false := by simp_all [isInf, isZero]

theorem isFinite_of_isZero {a : F32} (h : isZero a = true) : IsFinite a := by simp_all [isZero, IsFinite]

/-! ## The sign flipped -/

@[simp] theorem fneg_fneg (a : F32) : fneg (fneg a) = a := by simp [fneg]

@[simp] theorem fsign_fneg (a : F32) : fsign (fneg a) = !fsign a := by simp [fsign, fneg]

@[simp] theorem magnitude_fneg (a : F32) : magnitude (fneg a) = magnitude a := by
  have h : (fneg a).extractLsb' 0 31 = a.extractLsb' 0 31 := by simp [fneg, BitVec.extractLsb'_xor]
  simpa [magnitude, BitVec.extractLsb'_toNat] using congrArg BitVec.toNat h

@[simp] theorem fexpo_fneg (a : F32) : fexpo (fneg a) = fexpo a := by simp [fexpo_eq]

@[simp] theorem ffrac_fneg (a : F32) : ffrac (fneg a) = ffrac a := by simp [ffrac_eq]

@[simp] theorem isNaN_fneg (a : F32) : isNaN (fneg a) = isNaN a := by simp [isNaN]

@[simp] theorem isInf_fneg (a : F32) : isInf (fneg a) = isInf a := by simp [isInf]

@[simp] theorem fmant_fneg (a : F32) : fmant (fneg a) = fmant a := by simp [fmant]

@[simp] theorem fscale_fneg (a : F32) : fscale (fneg a) = fscale a := by simp [fscale]

@[simp] theorem fsigned_fneg (a : F32) : fsigned (fneg a) = -fsigned a := by cases h : fsign a <;> simp [fsigned, h]

@[simp] theorem valueOf_fneg (a : F32) : valueOf (fneg a) = -valueOf a := by simp [valueOf]

/-! ## A pattern built from a sign and a magnitude -/

theorem toNat_withSign (neg : Bool) {m : Nat} (h : m < 2 ^ 31) :
    (withSign neg m).toNat = (if neg then 2 ^ 31 else 0) + m := by
  cases neg <;> simp [withSign] <;> omega

theorem fsign_withSign (neg : Bool) {m : Nat} (h : m < 2 ^ 31) : fsign (withSign neg m) = neg := by
  rw [fsign_eq, toNat_withSign neg h]
  cases neg
  · simpa using h
  · simp

theorem magnitude_withSign (neg : Bool) {m : Nat} (h : m < 2 ^ 31) : magnitude (withSign neg m) = m := by
  rw [magnitude, toNat_withSign neg h]
  cases neg <;> simp <;> omega

/-! ## A sign and a value -/

/-- x, or -x for a set sign. -/
def applySign (neg : Bool) (x : ℚ) : ℚ := if neg then -x else x

@[simp] theorem abs_applySign (neg : Bool) (x : ℚ) : |applySign neg x| = |x| := by cases neg <;> simp [applySign]

theorem applySign_mul (m n : Bool) (x y : ℚ) : applySign m x * applySign n y = applySign (m != n) (x * y) := by
  cases m <;> cases n <;> simp [applySign]

theorem applySign_div (m n : Bool) (x y : ℚ) : applySign m x / applySign n y = applySign (m != n) (x / y) := by
  cases m <;> cases n <;> simp [applySign, neg_div, div_neg]

theorem abs_applySign_sub (neg : Bool) (x y : ℚ) : |applySign neg x - applySign neg y| = |x - y| := by
  cases neg
  · rfl
  · rw [← abs_neg (x - y)]
    simp [applySign, sub_eq_add_neg, add_comm]

theorem abs_applySign_sub_of_ne {m n : Bool} (h : m ≠ n) (x y : ℚ) : |applySign m x - applySign n y| = |x + y| := by
  obtain rfl : n = !m := by cases m <;> cases n <;> simp_all
  rw [show applySign (!m) y = applySign m (-y) by cases m <;> simp [applySign], abs_applySign_sub, sub_neg_eq_add]

theorem applySign_neg_iff (neg : Bool) {x : ℚ} (hx : 0 < x) : applySign neg x < 0 ↔ neg = true := by
  cases neg
  · simpa [applySign] using hx.le
  · simpa [applySign] using hx

/-! ## The value of a magnitude -/

/-- The value of the positive pattern with magnitude m. It goes on past the largest finite pattern as if the exponent field had no
reserved value, so that 0x7F800000 stands for 2^128. -/
def gridValue (m : Nat) : ℚ :=
  ((if m / 2 ^ 23 = 0 then m % 2 ^ 23 else 2 ^ 23 + m % 2 ^ 23 : Nat) : ℚ) * 2 ^ ((max (m / 2 ^ 23) 1 : Nat) - 150 : Int)

theorem gridValue_magnitude (a : F32) : gridValue (magnitude a) = fmant a * 2 ^ fscale a := by
  simp only [gridValue, fmant, fscale, fexpo_eq, ffrac_eq]

theorem valueOf_eq_gridValue (a : F32) : valueOf a = applySign (fsign a) (gridValue (magnitude a)) := by
  rw [gridValue_magnitude, valueOf, fsigned, applySign]
  split <;> simp

/-- The significand n in units of 2^(s - 149). A significand of 2^24 stands for the next exponent's smallest. -/
theorem gridValue_add {s n : Nat} (hn : n ≤ 2 ^ 24) (hs : s = 0 ∨ 2 ^ 23 ≤ n) :
    gridValue (s * 2 ^ 23 + n) = n * 2 ^ ((s : Int) - 149) := by
  unfold gridValue
  rcases Nat.lt_or_ge n (2 ^ 23) with h | h
  · obtain rfl : s = 0 := by omega
    rw [if_pos (by omega), show (0 * 2 ^ 23 + n) % 2 ^ 23 = n by omega, show max ((0 * 2 ^ 23 + n) / 2 ^ 23) 1 = 1 by omega]
    norm_num
  rcases Nat.lt_or_ge n (2 ^ 24) with h' | h'
  · rw [if_neg (by omega), show 2 ^ 23 + (s * 2 ^ 23 + n) % 2 ^ 23 = n by omega,
      show max ((s * 2 ^ 23 + n) / 2 ^ 23) 1 = s + 1 by omega]
    congr 2
    push_cast
    ring
  · obtain rfl : n = 2 ^ 24 := by omega
    rw [if_neg (by omega), show 2 ^ 23 + (s * 2 ^ 23 + 2 ^ 24) % 2 ^ 23 = 2 ^ 23 by omega,
      show max ((s * 2 ^ 23 + 2 ^ 24) / 2 ^ 23) 1 = s + 2 by omega,
      show ((s + 2 : Nat) : Int) - 150 = ((s : Int) - 149) + 1 by push_cast; ring, zpow_add_one₀ (by norm_num)]
    push_cast
    ring

/-- Every magnitude is a significand below 2^24 in units that are the smallest possible. -/
theorem exists_significand (m : Nat) : ∃ s n, m = s * 2 ^ 23 + n ∧ n < 2 ^ 24 ∧ (s = 0 ∨ 2 ^ 23 ≤ n) :=
  ⟨m / 2 ^ 23 - 1, m - (m / 2 ^ 23 - 1) * 2 ^ 23, by omega, by omega, by omega⟩

theorem gridValue_strictMono : StrictMono gridValue := by
  refine strictMono_nat_of_lt_succ fun m => ?_
  obtain ⟨s, n, rfl, hn, hs⟩ := exists_significand m
  rw [gridValue_add hn.le hs, Nat.add_assoc, gridValue_add hn (by omega)]
  exact mul_lt_mul_of_pos_right (by simp) (by positivity)

@[simp] theorem gridValue_zero : gridValue 0 = 0 := by simp [gridValue]

theorem gridValue_nonneg (m : Nat) : 0 ≤ gridValue m := by unfold gridValue; positivity

/-! ## The order of the values -/

/-- `gridValue` on both sides of zero, where `forder` takes its values. -/
def signedGrid (z : Int) : ℚ := if z < 0 then -gridValue z.natAbs else gridValue z.natAbs

theorem signedGrid_strictMono : StrictMono signedGrid := by
  intro y z h
  unfold signedGrid
  have hy := gridValue_nonneg y.natAbs
  have hz := gridValue_nonneg z.natAbs
  split
  · split
    · exact neg_lt_neg (gridValue_strictMono (by omega))
    · have := gridValue_strictMono (show 0 < y.natAbs by omega)
      rw [gridValue_zero] at this
      linarith
  · rw [if_neg (by omega)]
    exact gridValue_strictMono (by omega)

theorem valueOf_eq_signedGrid (a : F32) : valueOf a = signedGrid (forder a) := by
  rw [valueOf_eq_gridValue, forder_eq, signedGrid, applySign]
  cases fsign a
  · simp
  · rcases Nat.eq_zero_or_pos (magnitude a) with h | h
    · simp [h]
    · simp [h]

theorem forder_lt_iff (a b : F32) : forder a < forder b ↔ valueOf a < valueOf b := by
  rw [valueOf_eq_signedGrid, valueOf_eq_signedGrid, signedGrid_strictMono.lt_iff_lt]

theorem forder_le_iff (a b : F32) : forder a ≤ forder b ↔ valueOf a ≤ valueOf b := by
  rw [valueOf_eq_signedGrid, valueOf_eq_signedGrid, signedGrid_strictMono.le_iff_le]

/-! ## Comparisons -/

theorem flt_iff (a b : F32) : flt a b = true ↔ isNaN a = false ∧ isNaN b = false ∧ forder a < forder b := by
  simp [flt, and_assoc]

theorem fle_iff (a b : F32) : fle a b = true ↔ isNaN a = false ∧ isNaN b = false ∧ forder a ≤ forder b := by
  simp [fle, and_assoc]

theorem flt_iff_valueOf {a b : F32} (ha : IsFinite a) (hb : IsFinite b) : flt a b = true ↔ valueOf a < valueOf b := by
  simp [flt_iff, isNaN_of_isFinite ha, isNaN_of_isFinite hb, forder_lt_iff]

theorem fle_iff_valueOf {a b : F32} (ha : IsFinite a) (hb : IsFinite b) : fle a b = true ↔ valueOf a ≤ valueOf b := by
  simp [fle_iff, isNaN_of_isFinite ha, isNaN_of_isFinite hb, forder_le_iff]

theorem flt_of_isNaN {a b : F32} (h : isNaN a = true ∨ isNaN b = true) : flt a b = false := by
  rcases h with h | h <;> simp [flt, h]

theorem fle_of_isNaN {a b : F32} (h : isNaN a = true ∨ isNaN b = true) : fle a b = false := by
  rcases h with h | h <;> simp [fle, h]

theorem fle_eq_not_flt {a b : F32} (ha : isNaN a = false) (hb : isNaN b = false) : fle a b = !flt b a := by
  rw [Bool.eq_iff_iff, Bool.not_eq_true', ← Bool.not_eq_true, fle_iff, flt_iff]
  simp [ha, hb]

theorem fle_refl {a : F32} (h : isNaN a = false) : fle a a = true := by simp [fle_iff, h]

/-- A finite value is below +∞. -/
theorem flt_plusInf {a : F32} (h : IsFinite a) : flt a plusInf = true :=
  (flt_iff a plusInf).2 ⟨isNaN_of_isFinite h, by decide, ((isFinite_iff_forder a).1 h).2⟩

/-- A finite value is above -∞. -/
theorem minusInf_flt {a : F32} (h : IsFinite a) : flt (fneg plusInf) a = true :=
  (flt_iff (fneg plusInf) a).2 ⟨by decide, isNaN_of_isFinite h, ((isFinite_iff_forder a).1 h).1⟩

/-- What lies between finite bounds is finite. -/
theorem isFinite_of_fle {lo v hi : F32} (hlo : IsFinite lo) (hhi : IsFinite hi) (h₁ : fle lo v = true) (h₂ : fle v hi = true) :
    IsFinite v := by
  obtain ⟨-, -, h₁⟩ := (fle_iff lo v).1 h₁
  obtain ⟨-, -, h₂⟩ := (fle_iff v hi).1 h₂
  rw [isFinite_iff_forder] at *
  omega

/-! ## Clamps -/

theorem clampf_of_isNaN {v : F32} (lo hi : F32) (h : isNaN v = true) : clampf v lo hi = lo := by simp [clampf, h]

theorem clampf_of_flt_lo {v lo : F32} (hi : F32) (h : flt v lo = true) : clampf v lo hi = lo := by simp [clampf, h]

theorem clampf_of_flt_hi {v lo hi : F32} (hlo : flt v lo = false) (hhi : flt hi v = true) : clampf v lo hi = hi := by
  obtain ⟨-, hv, -⟩ := (flt_iff hi v).1 hhi
  simp [clampf, hv, hlo, hhi]

theorem clampf_of_inside {v lo hi : F32} (hv : isNaN v = false) (hlo : flt v lo = false) (hhi : flt hi v = false) :
    clampf v lo hi = v := by simp [clampf, hv, hlo, hhi]

/-- Between ordered bounds, whatever the argument (R10). -/
theorem clampf_between (v : F32) {lo hi : F32} (h : fle lo hi = true) : Between lo (clampf v lo hi) hi := by
  obtain ⟨nlo, nhi, -⟩ := (fle_iff lo hi).1 h
  cases hv : isNaN v
  case true => rw [clampf_of_isNaN lo hi hv]; exact ⟨fle_refl nlo, h⟩
  cases hl : flt v lo
  case true => rw [clampf_of_flt_lo hi hl]; exact ⟨fle_refl nlo, h⟩
  cases hh : flt hi v
  case true => rw [clampf_of_flt_hi hl hh]; exact ⟨h, fle_refl nhi⟩
  rw [clampf_of_inside hv hl hh]
  exact ⟨by rw [fle_eq_not_flt nlo hv, hl]; rfl, by rw [fle_eq_not_flt hv nhi, hh]; rfl⟩

theorem clampfHit_iff (v lo hi : F32) : clampfHit v lo hi = true ↔ clampf v lo hi ≠ v := bne_iff_ne

theorem clampu_eq_min_max (v : Word) {lo hi : Nat} (h : lo ≤ hi) : clampu v lo hi = min (max v.toNat lo) hi := by
  unfold clampu
  split
  · omega
  · split <;> omega

theorem clampuHit_iff (v : Word) {lo hi : Nat} (h : lo ≤ hi) : clampuHit v lo hi = true ↔ v.toNat < lo ∨ hi < v.toNat := by
  rw [clampuHit, bne_iff_ne, clampu_eq_min_max v h]
  omega

end Sys2Proof.Laws
end

section
/-! PROOF. Comparisons and clamps (O13). -/

namespace Sys2Proof.Proofs

open Sys2Proof Sys2Proof.Machine Sys2Proof.Laws

/-- Settles O13: `forder` orders the patterns that are no NaN as their values, and the clamps are the cases of their
definitions. -/
theorem comparisonsAndClamps : Obligations.ComparisonsAndClamps := by
  refine ⟨fun a b ha hb => ⟨flt_iff_valueOf ha hb, fle_iff_valueOf ha hb⟩, fun a ha => ⟨flt_plusInf ha, minusInf_flt ha⟩,
    by decide, fun a b ha hb => ⟨fle_eq_not_flt ha hb, ?_⟩, ?_, fun a b h => ⟨flt_of_isNaN h, fle_of_isNaN h⟩, clampfHit_iff,
    fun v lo hi h => ⟨clampu_eq_min_max v h, clampuHit_iff v h⟩, fun v lo hi => clampf_of_isNaN lo hi,
    fun v lo hi => clampf_of_flt_lo hi, fun v lo hi => clampf_of_flt_hi, fun v lo hi => clampf_of_inside,
    fun v lo hi => clampf_between v⟩
  · intro h
    obtain ⟨-, -, hab⟩ := (flt_iff a b).1 h
    simp [flt, hab.le]
  · intro a
    simp [isNaN, fexpo, ffrac, ← BitVec.toNat_inj]

end Sys2Proof.Proofs
end

section
/-! SUPPORT. The operations on NaNs, infinities and zeros, where no rounding takes part, and the sign a rounding keeps (rule R9). -/

namespace Sys2Proof.Laws

open Sys2Proof Sys2Proof.Machine

/-! ## NaN operands -/

theorem fadd_of_isNaN {a b : F32} (h : isNaN a = true ∨ isNaN b = true) : fadd a b = canonicalNaN := by
  rcases h with h | h <;> simp [fadd, h]

theorem fsub_of_isNaN {a b : F32} (h : isNaN a = true ∨ isNaN b = true) : fsub a b = canonicalNaN :=
  fadd_of_isNaN (by simpa using h)

theorem fmul_of_isNaN {a b : F32} (h : isNaN a = true ∨ isNaN b = true) : fmul a b = canonicalNaN := by
  rcases h with h | h <;> simp [fmul, h]

theorem fdiv_of_isNaN {a b : F32} (h : isNaN a = true ∨ isNaN b = true) : fdiv a b = canonicalNaN := by
  rcases h with h | h <;> simp [fdiv, h]

/-! ## Infinities -/

/-- Two infinities add to themselves, or to a NaN if their signs differ. -/
theorem fadd_inf_inf {a b : F32} (ha : isInf a = true) (hb : isInf b = true) :
    fadd a b = if fsign a = fsign b then a else canonicalNaN := by
  unfold fadd
  rw [if_neg (by simp [isNaN_of_isInf ha, isNaN_of_isInf hb]), if_pos ha, hb]
  cases fsign a <;> cases fsign b <;> simp

theorem fadd_inf_finite {a x : F32} (ha : isInf a = true) (hx : IsFinite x) : fadd a x = a := by
  simp [fadd, isNaN_of_isInf ha, isNaN_of_isFinite hx, ha, isInf_of_isFinite hx]

theorem fadd_finite_inf {a x : F32} (ha : isInf a = true) (hx : IsFinite x) : fadd x a = a := by
  simp [fadd, isNaN_of_isInf ha, isNaN_of_isFinite hx, ha, isInf_of_isFinite hx]

theorem fmul_inf_zero {a z : F32} (ha : isInf a = true) (hz : isZero z = true) : fmul a z = canonicalNaN := by
  simp [fmul, ha, hz]

theorem fmul_zero_inf {a z : F32} (ha : isInf a = true) (hz : isZero z = true) : fmul z a = canonicalNaN := by
  simp [fmul, ha, hz]

theorem fmul_inf_left {a x : F32} (ha : isInf a = true) (hn : isNaN x = false) (hz : isZero x = false) :
    fmul a x = withSign (fsign a != fsign x) 0x7F800000 := by
  simp [fmul, isNaN_of_isInf ha, isZero_of_isInf ha, ha, hn, hz]

theorem fmul_inf_right {a x : F32} (ha : isInf a = true) (hn : isNaN x = false) (hz : isZero x = false) :
    fmul x a = withSign (fsign x != fsign a) 0x7F800000 := by
  simp [fmul, isNaN_of_isInf ha, isZero_of_isInf ha, ha, hn, hz]

theorem fdiv_inf_inf {a b : F32} (ha : isInf a = true) (hb : isInf b = true) : fdiv a b = canonicalNaN := by
  simp [fdiv, ha, hb]

theorem fdiv_inf_finite {a x : F32} (ha : isInf a = true) (hx : IsFinite x) :
    fdiv a x = withSign (fsign a != fsign x) 0x7F800000 := by
  simp [fdiv, isNaN_of_isInf ha, isNaN_of_isFinite hx, ha, isInf_of_isFinite hx]

theorem fdiv_finite_inf {a x : F32} (ha : isInf a = true) (hx : IsFinite x) : fdiv x a = withSign (fsign x != fsign a) 0 := by
  simp [fdiv, isNaN_of_isInf ha, isNaN_of_isFinite hx, ha, isInf_of_isFinite hx]

/-! ## The parts of a rounding -/

/-- The exponent of the last place in which m · 2^e is rounded. -/
def roundExponent (m : Nat) (e : Int) : Int := max (e + (Nat.log2 m : Int) - 23) (-149)

/-- The significand m · 2^e is rounded to, in units of its last place. -/
def roundSignificand (m : Nat) (e : Int) : Nat :=
  if roundExponent m e ≤ e then m * 2 ^ (e - roundExponent m e).toNat else shiftRoundEven m (roundExponent m e - e).toNat

/-- The magnitude m · 2^e is rounded to, before it is cut to that of an infinity. -/
def roundBits (m : Nat) (e : Int) : Nat :=
  if m = 0 then 0 else (roundExponent m e + 149).toNat * 2 ^ 23 + roundSignificand m e

theorem roundTo_eq_withSign (neg : Bool) (m : Nat) (e : Int) :
    roundTo neg m e = withSign neg (min (roundBits m e) 0x7F800000) := by
  rw [roundBits]
  split
  · simp [roundTo, *]
  · trans if (roundExponent m e + 149).toNat * 2 ^ 23 + roundSignificand m e ≥ 0x7F800000 then withSign neg 0x7F800000
      else withSign neg ((roundExponent m e + 149).toNat * 2 ^ 23 + roundSignificand m e)
    · rw [roundTo, if_neg ‹_›]; rfl
    · split
      · rw [Nat.min_eq_right ‹_›]
      · rw [Nat.min_eq_left (by omega)]

/-- A rounding keeps the sign it is told. -/
@[simp] theorem fsign_roundTo (neg : Bool) (m : Nat) (e : Int) : fsign (roundTo neg m e) = neg := by
  rw [roundTo_eq_withSign, fsign_withSign neg (by omega)]

@[simp] theorem roundTo_zero (neg : Bool) (e : Int) : roundTo neg 0 e = withSign neg 0 := by simp [roundTo]

/-! ## Finite operands -/

/-- The significand of the exact sum of finite operands, in units of the smaller scale. -/
def sumSignificand (a b : F32) : Int :=
  fsigned a * 2 ^ (fscale a - min (fscale a) (fscale b)).toNat + fsigned b * 2 ^ (fscale b - min (fscale a) (fscale b)).toNat

theorem fadd_finite {a b : F32} (ha : IsFinite a) (hb : IsFinite b) :
    fadd a b = if sumSignificand a b = 0 then withSign (fsign a && fsign b) 0
      else roundTo (decide (sumSignificand a b < 0)) (sumSignificand a b).natAbs (min (fscale a) (fscale b)) := by
  unfold fadd
  rw [if_neg (by simp [isNaN_of_isFinite ha, isNaN_of_isFinite hb]), if_neg (by simp [isInf_of_isFinite ha]),
    if_neg (by simp [isInf_of_isFinite hb])]
  rfl

theorem fmul_finite {a b : F32} (ha : IsFinite a) (hb : IsFinite b) :
    fmul a b = roundTo (fsign a != fsign b) (fmant a * fmant b) (fscale a + fscale b) := by
  simp [fmul, isNaN_of_isFinite ha, isNaN_of_isFinite hb, isInf_of_isFinite ha, isInf_of_isFinite hb]

/-- The significand of a quotient: 50 bits more than the dividend's, and below them the sticky bit. -/
def quotientSignificand (a b : F32) : Nat :=
  2 * (fmant a * 2 ^ 50 / fmant b) + if fmant a * 2 ^ 50 % fmant b = 0 then 0 else 1

theorem fdiv_finite {a b : F32} (ha : IsFinite a) (hb : IsFinite b) (hz : isZero b = false) :
    fdiv a b = roundTo (fsign a != fsign b) (quotientSignificand a b) (fscale a - fscale b - 51) := by
  simp [fdiv, isNaN_of_isFinite ha, isNaN_of_isFinite hb, isInf_of_isFinite ha, isInf_of_isFinite hb, hz, quotientSignificand]

/-- x + (-x) is +0 (R9). -/
theorem fadd_fneg_self {a : F32} (h : IsFinite a) : fadd a (fneg a) = 0 := by
  have hneg : IsFinite (fneg a) := by simpa [IsFinite] using h
  rw [fadd_finite h hneg, if_pos (by simp [sumSignificand])]
  cases hs : fsign a <;> simp [hs, withSign]

theorem fmul_zero_right {a z : F32} (ha : IsFinite a) (hz : isZero z = true) : fmul a z = withSign (fsign a != fsign z) 0 := by
  rw [fmul_finite ha (isFinite_of_isZero hz), (fmant_eq_zero_iff z).2 hz, Nat.mul_zero, roundTo_zero]

theorem fmul_zero_left {a z : F32} (ha : IsFinite a) (hz : isZero z = true) : fmul z a = withSign (fsign z != fsign a) 0 := by
  rw [fmul_finite (isFinite_of_isZero hz) ha, (fmant_eq_zero_iff z).2 hz, Nat.zero_mul, roundTo_zero]

theorem fdiv_zero_zero {y z : F32} (hy : isZero y = true) (hz : isZero z = true) : fdiv y z = canonicalNaN := by
  simp [fdiv, isInf_of_isFinite (isFinite_of_isZero hy), isInf_of_isFinite (isFinite_of_isZero hz), hy, hz]

theorem fdiv_by_zero {a z : F32} (ha : IsFinite a) (hn : isZero a = false) (hz : isZero z = true) :
    fdiv a z = withSign (fsign a != fsign z) 0x7F800000 := by
  have hf := isFinite_of_isZero hz
  simp [fdiv, isNaN_of_isFinite ha, isNaN_of_isFinite hf, isInf_of_isFinite ha, isInf_of_isFinite hf, hn, hz]

theorem fdiv_of_zero {a z : F32} (ha : IsFinite a) (hn : isZero a = false) (hz : isZero z = true) :
    fdiv z a = withSign (fsign z != fsign a) 0 := by
  have hq : quotientSignificand z a = 0 := by simp [quotientSignificand, (fmant_eq_zero_iff z).2 hz]
  rw [fdiv_finite (isFinite_of_isZero hz) ha hn, hq, roundTo_zero]

end Sys2Proof.Laws
end

section
/-! PROOF. Special results (O14). -/

namespace Sys2Proof.Proofs

open Sys2Proof Sys2Proof.Machine Sys2Proof.Laws

/-- Settles O14: each case is the branch of the operation that its operands take, and a rounding keeps the sign it is told. -/
theorem specialResults : Obligations.SpecialResults := by
  refine ⟨fun a b h => ⟨fadd_of_isNaN h, fsub_of_isNaN h, fmul_of_isNaN h, fdiv_of_isNaN h⟩, fun a ha => ?_,
    fun a x ha hx => ?_, fun y z => fdiv_zero_zero, fun a z ha hn hz => ⟨fdiv_by_zero ha hn hz, fdiv_of_zero ha hn hz⟩,
    fun a ha => ⟨fadd_fneg_self ha, fadd_fneg_self ha⟩, by decide, by decide, by decide, by decide,
    fun a z ha hz => ⟨fmul_zero_right ha hz, fmul_zero_left ha hz⟩, fun a b ha hb => ?_⟩
  · have ha' : isInf (fneg a) = true := by simpa using ha
    have hself : fadd a a = a := by simp [fadd_inf_inf ha ha]
    have hopp : fadd a (fneg a) = canonicalNaN := by simp [fadd_inf_inf ha ha']
    exact ⟨hopp, hopp, hself, by rw [fsub, fneg_fneg, hself], fun z hz => ⟨fmul_inf_zero ha hz, fmul_zero_inf ha hz⟩,
      fun b hb => ⟨fdiv_inf_inf ha hb, fmul_inf_left ha (isNaN_of_isInf hb) (isZero_of_isInf hb)⟩⟩
  · have ha' : isInf (fneg a) = true := by simpa using ha
    have hx' : IsFinite (fneg x) := by simpa [IsFinite] using hx
    have hn := isNaN_of_isFinite hx
    exact ⟨fadd_inf_finite ha hx, fadd_finite_inf ha hx, fadd_inf_finite ha hx', fadd_finite_inf ha' hx, fdiv_finite_inf ha hx,
      fdiv_inf_finite ha hx, fun hz => ⟨fmul_inf_left ha hn hz, fmul_inf_right ha hn hz⟩⟩
  · exact ⟨by rw [fmul_finite ha hb, fsign_roundTo], fun hz => by rw [fdiv_finite ha hb hz, fsign_roundTo]⟩

end Sys2Proof.Proofs
end

section
/-! SUPPORT. Rounding to nearest even: what `roundTo` computes is the magnitude whose value is nearest to the exact value, for an
exact significand and for one with a sticky bit (rule R9). -/

namespace Sys2Proof.Laws

open Sys2Proof Sys2Proof.Machine

/-! ## Rounding a rational to an integer -/

/-- n is an integer nearest to y, and even if y lies half-way between two. -/
structure RoundsInt (n : Nat) (y : ℚ) : Prop where
  above : 2 * y ≤ 2 * n + 1 ∧ (2 * y = 2 * n + 1 → n % 2 = 0)
  below : 2 * n - 1 ≤ 2 * y ∧ (2 * n - 1 = 2 * y → n % 2 = 0)

theorem RoundsInt.of_nat (n : Nat) : RoundsInt n n where
  above := ⟨by linarith, fun h => by linarith⟩
  below := ⟨by linarith, fun h => by linarith⟩

/-- Cutting k bits rounds down when they are at most a half, and up when they are at least a half. -/
theorem shiftRoundEven_cases (m k : Nat) : ∃ q r, m = q * 2 ^ k + r ∧
    (shiftRoundEven m k = q ∧ 2 * r ≤ 2 ^ k ∧ (2 * r = 2 ^ k → q % 2 = 0) ∨
     shiftRoundEven m k = q + 1 ∧ 2 ^ k ≤ 2 * r ∧ r < 2 ^ k ∧ (2 * r = 2 ^ k → q % 2 = 1)) := by
  have hr := Nat.mod_lt m (show 0 < 2 ^ k by positivity)
  refine ⟨m / 2 ^ k, m % 2 ^ k, (Nat.div_add_mod' m (2 ^ k)).symm, ?_⟩
  unfold shiftRoundEven
  dsimp only
  split
  · exact .inr ⟨rfl, by omega, hr, by omega⟩
  · exact .inl ⟨rfl, by omega, by omega⟩

/-- m is at most half a unit above what it is rounded to. -/
theorem shiftRoundEven_above (m k : Nat) :
    2 * m ≤ (2 * shiftRoundEven m k + 1) * 2 ^ k ∧
    (2 * m = (2 * shiftRoundEven m k + 1) * 2 ^ k → shiftRoundEven m k % 2 = 0) := by
  obtain ⟨q, r, rfl, ⟨hn, hr, ht⟩ | ⟨hn, hl, hr, -⟩⟩ := shiftRoundEven_cases m k
  · rw [hn, Nat.add_mul, Nat.mul_assoc]
    omega
  · rw [hn, show (2 * (q + 1) + 1) * 2 ^ k = 2 * (q * 2 ^ k) + 3 * 2 ^ k by ring]
    omega

/-- m is at most half a unit below what it is rounded to. -/
theorem shiftRoundEven_below (m k : Nat) :
    2 * shiftRoundEven m k * 2 ^ k ≤ 2 * m + 2 ^ k ∧
    (2 * shiftRoundEven m k * 2 ^ k = 2 * m + 2 ^ k → shiftRoundEven m k % 2 = 0) := by
  have hp : 0 < 2 ^ k := by positivity
  obtain ⟨q, r, rfl, ⟨hn, -, -⟩ | ⟨hn, hl, -, ht⟩⟩ := shiftRoundEven_cases m k
  · rw [hn, Nat.mul_assoc]
    omega
  · rw [hn, show 2 * (q + 1) * 2 ^ k = 2 * (q * 2 ^ k) + 2 * 2 ^ k by ring]
    omega

/-- Cutting k bits of m rounds m / 2^k. -/
theorem roundsInt_shiftRoundEven {m k : Nat} {y : ℚ} (hy : y * 2 ^ k = m) : RoundsInt (shiftRoundEven m k) y := by
  obtain ⟨ha, ha'⟩ := shiftRoundEven_above m k
  obtain ⟨hb, hb'⟩ := shiftRoundEven_below m k
  generalize shiftRoundEven m k = n at *
  have hp : (0 : ℚ) < 2 ^ k := by positivity
  qify at ha hb
  refine ⟨⟨?_, fun h => ha' ?_⟩, ?_, fun h => hb' ?_⟩
  · exact le_of_mul_le_mul_right (by linarith) hp
  · qify; linear_combination (2 ^ k : ℚ) * h - 2 * hy
  · exact le_of_mul_le_mul_right (by linarith) hp
  · qify; linear_combination (2 ^ k : ℚ) * h + 2 * hy

/-- Cutting at least two bits of an odd m rounds every number strictly between the neighbours of m / 2^k alike: no half-way point
lies strictly between them. -/
theorem roundsInt_shiftRoundEven_sticky {m k : Nat} (hm : m % 2 = 1) (hk : 2 ≤ k) {y : ℚ} (hl : (m : ℚ) - 1 < y * 2 ^ k)
    (hu : y * 2 ^ k < m + 1) : RoundsInt (shiftRoundEven m k) y := by
  obtain ⟨ha, -⟩ := shiftRoundEven_above m k
  obtain ⟨hb, -⟩ := shiftRoundEven_below m k
  generalize shiftRoundEven m k = n at *
  have hp : (0 : ℚ) < 2 ^ k := by positivity
  obtain ⟨j, rfl⟩ := Nat.exists_eq_add_of_le hk
  have ha : 2 * m + 2 ≤ (2 * n + 1) * 2 ^ (2 + j) := by rw [pow_add, Nat.mul_left_comm] at *; omega
  have hb : 2 * n * 2 ^ (2 + j) + 2 ≤ 2 * m + 2 ^ (2 + j) := by rw [pow_add, Nat.mul_left_comm] at *; omega
  qify at ha hb
  have hlt : 2 * y < 2 * n + 1 := lt_of_mul_lt_mul_right (by linarith) hp.le
  have hgt : 2 * n - 1 < 2 * y := lt_of_mul_lt_mul_right (by linarith) hp.le
  exact ⟨⟨hlt.le, fun h => absurd h hlt.ne⟩, hgt.le, fun h => absurd h hgt.ne⟩

/-! ## The significand a rounding computes -/

/-- The significand m in units of 2^e stands for x: exactly, or as an odd number of at least 26 bits whose last bit says that x lies
strictly between its two neighbours. -/
def StandsFor (m : Nat) (e : Int) (x : ℚ) : Prop :=
  x = m * 2 ^ e ∨ m % 2 = 1 ∧ 2 ^ 25 ≤ m ∧ ((m : ℚ) - 1) * 2 ^ e < x ∧ x < ((m : ℚ) + 1) * 2 ^ e

theorem StandsFor.nonneg {m : Nat} {e : Int} {x : ℚ} (h : StandsFor m e x) : 0 ≤ x := by
  rcases h with rfl | ⟨hm, -, hl, -⟩
  · positivity
  · have : (1 : ℚ) ≤ m := by exact_mod_cast (by omega : 1 ≤ m)
    have : 0 ≤ ((m : ℚ) - 1) * 2 ^ e := mul_nonneg (by linarith) (by positivity)
    linarith

/-- A power of two as a power of a smaller exponent and a natural one. -/
theorem zpow_eq_mul_pow {d e : Int} (h : e ≤ d) : (2 : ℚ) ^ d = 2 ^ (d - e).toNat * 2 ^ e := by
  rw [← zpow_natCast, ← zpow_add₀ (by norm_num)]
  congr 1
  omega

theorem roundsInt_roundSignificand {m : Nat} {e : Int} {y : ℚ} (h : StandsFor m e (y * 2 ^ roundExponent m e)) :
    RoundsInt (roundSignificand m e) y := by
  have he : (0 : ℚ) < 2 ^ e := by positivity
  have hE : (0 : ℚ) < 2 ^ roundExponent m e := by positivity
  unfold roundSignificand
  split
  · case isTrue hle =>
    rcases h with h | ⟨-, hm, -, -⟩
    · obtain rfl : y = (m * 2 ^ (e - roundExponent m e).toNat : Nat) := by
        rw [zpow_eq_mul_pow hle, ← mul_assoc] at h
        exact_mod_cast mul_right_cancel₀ hE.ne' h
      exact .of_nat _
    · have := (Nat.le_log2 (by omega)).2 hm
      unfold roundExponent at hle
      omega
  · case isFalse hle =>
    rw [zpow_eq_mul_pow (not_le.1 hle).le, ← mul_assoc] at h
    rcases h with h | ⟨hodd, hm, hl, hu⟩
    · exact roundsInt_shiftRoundEven (mul_right_cancel₀ he.ne' h)
    · have := (Nat.le_log2 (by omega)).2 hm
      refine roundsInt_shiftRoundEven_sticky hodd ?_ (lt_of_mul_lt_mul_right hl he.le) (lt_of_mul_lt_mul_right hu he.le)
      unfold roundExponent
      omega

/-- A rounded significand fits in 24 bits, but for a carry into the next exponent. -/
theorem roundSignificand_le (m : Nat) (e : Int) : roundSignificand m e ≤ 2 ^ 24 := by
  have hm : m < 2 ^ (m.log2 + 1) := Nat.lt_log2_self
  unfold roundSignificand
  split
  · case isTrue hle =>
    calc m * 2 ^ (e - roundExponent m e).toNat
        ≤ 2 ^ (m.log2 + 1) * 2 ^ (e - roundExponent m e).toNat := Nat.mul_le_mul_right _ hm.le
      _ = 2 ^ (m.log2 + 1 + (e - roundExponent m e).toNat) := (pow_add ..).symm
      _ ≤ 2 ^ 24 := Nat.pow_le_pow_right (by norm_num) (by unfold roundExponent at *; omega)
  · case isFalse hle =>
    generalize hk : (roundExponent m e - e).toNat = k
    have hm' : m < 2 ^ 24 * 2 ^ k := by
      rw [← pow_add]
      exact hm.trans_le (Nat.pow_le_pow_right (by norm_num) (by unfold roundExponent at *; omega))
    have := (shiftRoundEven_below m k).1
    have : 2 * shiftRoundEven m k < 2 * 2 ^ 24 + 1 := Nat.lt_of_mul_lt_mul_right (a := 2 ^ k) (by omega)
    omega

/-- Above the smallest exponent a rounded significand has its leading bit. -/
theorem le_roundSignificand {m : Nat} {e : Int} (hm : m ≠ 0) (hE : roundExponent m e ≠ -149) :
    2 ^ 23 ≤ roundSignificand m e := by
  have hm : 2 ^ m.log2 ≤ m := Nat.log2_self_le hm
  have hE : roundExponent m e = e + m.log2 - 23 := by unfold roundExponent at *; omega
  unfold roundSignificand
  split
  · case isTrue hle =>
    calc 2 ^ 23 = 2 ^ (m.log2 + (e - roundExponent m e).toNat) := by congr 1; omega
      _ = 2 ^ m.log2 * 2 ^ (e - roundExponent m e).toNat := pow_add ..
      _ ≤ m * 2 ^ (e - roundExponent m e).toNat := Nat.mul_le_mul_right _ hm
  · case isFalse hle =>
    generalize hk : (roundExponent m e - e).toNat = k
    rw [show m.log2 = 23 + k by omega, pow_add] at hm
    have := (shiftRoundEven_above m k).1
    have : 2 * 2 ^ 23 * 2 ^ k ≤ (2 * shiftRoundEven m k + 1) * 2 ^ k := by omega
    have := Nat.le_of_mul_le_mul_right this (by positivity)
    omega

/-- Above the smallest exponent the exact value is not below the smallest significand with a leading bit. -/
theorem le_of_standsFor {m : Nat} {e : Int} {x : ℚ} (h : StandsFor m e x) (hm : m ≠ 0) (hE : roundExponent m e ≠ -149) :
    2 ^ 23 * 2 ^ roundExponent m e ≤ x := by
  have hlog : 2 ^ m.log2 ≤ m := Nat.log2_self_le hm
  have hpow : (2 : ℚ) ^ 23 * 2 ^ roundExponent m e = (2 ^ m.log2 : Nat) * 2 ^ e := by
    push_cast
    rw [← zpow_natCast, ← zpow_natCast, ← zpow_add₀ (by norm_num), ← zpow_add₀ (by norm_num)]
    congr 1
    unfold roundExponent at *
    omega
  have he : (0 : ℚ) ≤ 2 ^ e := by positivity
  rw [hpow]
  rcases h with rfl | ⟨hodd, hm25, hl, -⟩
  · exact mul_le_mul_of_nonneg_right (by exact_mod_cast hlog) he
  · have hlog25 := (Nat.le_log2 hm).2 hm25
    obtain ⟨j, hj⟩ := Nat.exists_eq_add_of_le' (show 1 ≤ m.log2 by omega)
    have hle : 2 ^ m.log2 ≤ m - 1 := by rw [hj, pow_succ] at hlog ⊢; omega
    have hcast : ((2 ^ m.log2 : Nat) : ℚ) ≤ m - 1 := by
      rw [← Nat.cast_one, ← Nat.cast_sub (by omega)]
      exact_mod_cast hle
    exact (mul_le_mul_of_nonneg_right hcast he).trans hl.le

/-! ## The magnitude nearest to a value -/

/-- B is the magnitude whose value is nearest to x, and even if another one is as near. -/
structure Rounds (B : Nat) (x : ℚ) : Prop where
  below : ∀ C < B, gridValue C + gridValue B ≤ 2 * x ∧ (gridValue C + gridValue B = 2 * x → B % 2 = 0)
  above : ∀ C > B, 2 * x ≤ gridValue B + gridValue C ∧ (2 * x = gridValue B + gridValue C → B % 2 = 0)

theorem Rounds.zero : Rounds 0 0 where
  below := fun C h => absurd h (Nat.not_lt_zero C)
  above := fun C _ => ⟨by simpa using gridValue_nonneg C, fun _ => rfl⟩

/-- A significand rounded to an integer gives the nearest magnitude: the neighbours are one unit away, or the lower one, below a
power of two, half a unit, and then the exact value is not below that power. -/
theorem rounds_of_roundsInt {s n : Nat} {y : ℚ} (h : RoundsInt n y) (hn : n ≤ 2 ^ 24)
    (hs : s = 0 ∨ 2 ^ 23 ≤ n ∧ 2 ^ 23 ≤ y) : Rounds (s * 2 ^ 23 + n) (y * 2 ^ ((s : Int) - 149)) := by
  have hB := gridValue_add hn (hs.imp_right And.left)
  have hu : (0 : ℚ) < 2 ^ ((s : Int) - 149) := by positivity
  obtain ⟨⟨ha, ha'⟩, hb, hb'⟩ := h
  constructor
  · intro C hC
    rw [hB]
    by_cases hpow : s = 0 ∨ 2 ^ 23 < n
    · have hC : gridValue C ≤ (n - 1) * 2 ^ ((s : Int) - 149) := by
        have := gridValue_add (s := s) (show n - 1 ≤ 2 ^ 24 by omega) (by omega)
        rw [Nat.cast_sub (by omega), Nat.cast_one] at this
        rw [← this]
        exact gridValue_strictMono.monotone (by omega)
      refine ⟨by nlinarith, fun heq => ?_⟩
      have := hb' (le_antisymm hb (le_of_mul_le_mul_right (by linarith) hu))
      omega
    · have hC := gridValue_strictMono hC
      rw [hB] at hC
      have hy : (n : ℚ) ≤ y := by
        rw [show n = 2 ^ 23 by omega]
        exact_mod_cast (hs.resolve_left (by omega)).2
      have := mul_le_mul_of_nonneg_right hy hu.le
      exact ⟨by linarith, fun heq => by linarith⟩
  · intro C hC
    rw [hB]
    have hC : (n + 1) * 2 ^ ((s : Int) - 149) ≤ gridValue C := by
      refine le_trans ?_ (gridValue_strictMono.monotone (show s * 2 ^ 23 + n + 1 ≤ C from hC))
      rcases hn.lt_or_eq with hlt | rfl
      · rw [Nat.add_assoc, gridValue_add hlt (by omega)]
        push_cast
        exact le_rfl
      · rw [show s * 2 ^ 23 + 2 ^ 24 + 1 = (s + 1) * 2 ^ 23 + (2 ^ 23 + 1) by ring, gridValue_add (by norm_num) (by norm_num),
          show ((s + 1 : Nat) : Int) - 149 = ((s : Int) - 149) + 1 by push_cast; ring, zpow_add_one₀ (by norm_num)]
        push_cast
        linarith
    refine ⟨by nlinarith, fun heq => ?_⟩
    have := ha' (le_antisymm ha (le_of_mul_le_mul_right (by linarith) hu))
    omega

/-- What `roundTo` computes before it cuts to an infinity is the nearest magnitude. -/
theorem rounds_roundBits {m : Nat} {e : Int} {x : ℚ} (h : StandsFor m e x) : Rounds (roundBits m e) x := by
  rw [roundBits]
  split
  · case isTrue hm =>
    obtain rfl : x = 0 := by
      rcases h with rfl | ⟨hodd, -⟩
      · simp [hm]
      · omega
    exact .zero
  · case isFalse hm =>
    obtain ⟨s, hs⟩ : ∃ s : Nat, roundExponent m e = (s : Int) - 149 :=
      ⟨(roundExponent m e + 149).toNat, by unfold roundExponent; omega⟩
    have hu : (0 : ℚ) < 2 ^ ((s : Int) - 149) := by positivity
    obtain ⟨y, rfl⟩ : ∃ y, x = y * 2 ^ ((s : Int) - 149) := ⟨x / 2 ^ ((s : Int) - 149), by field_simp⟩
    rw [hs, show ((s : Int) - 149 + 149).toNat = s by omega]
    refine rounds_of_roundsInt (roundsInt_roundSignificand (by rwa [hs])) (roundSignificand_le m e) ?_
    refine (Nat.eq_zero_or_pos s).imp_right fun hpos => ⟨le_roundSignificand hm (by omega), ?_⟩
    have := le_of_standsFor h hm (by omega)
    rw [hs] at this
    exact le_of_mul_le_mul_right this hu

/-- A number not past the middle between a near and a far point is no farther from the near one, and as far only in the middle. -/
theorem abs_sub_le_of_le_middle {near far x : ℚ} (hlt : near < far) (hx : 2 * x ≤ near + far) :
    |near - x| ≤ |far - x| ∧ (|near - x| = |far - x| → 2 * x = near + far) := by
  rw [abs_of_pos (show 0 < far - x by linarith)]
  refine ⟨abs_le.2 ⟨by linarith, by linarith⟩, fun h => ?_⟩
  rcases abs_cases (near - x) with ⟨ha, -⟩ | ⟨ha, -⟩ <;> linarith

theorem Rounds.abs_sub_le {B : Nat} {x : ℚ} (h : Rounds B x) (C : Nat) :
    |gridValue B - x| ≤ |gridValue C - x| ∧ (|gridValue B - x| = |gridValue C - x| → C ≠ B → B % 2 = 0) := by
  rcases lt_trichotomy C B with hC | rfl | hC
  · obtain ⟨hle, heq⟩ := h.below C hC
    obtain ⟨hd, hd'⟩ := abs_sub_le_of_le_middle (x := -x) (neg_lt_neg (gridValue_strictMono hC)) (by linarith)
    rw [← neg_sub', ← neg_sub', abs_neg, abs_neg] at hd hd'
    exact ⟨hd, fun he _ => heq (by linarith [hd' he])⟩
  · exact ⟨le_rfl, fun _ hne => absurd rfl hne⟩
  · obtain ⟨hle, heq⟩ := h.above C hC
    obtain ⟨hd, hd'⟩ := abs_sub_le_of_le_middle (gridValue_strictMono hC) hle
    exact ⟨hd, fun he _ => heq (hd' he)⟩

end Sys2Proof.Laws
end

section
/-! SUPPORT. Sum, product, quotient and the conversion of an integer are the exact value rounded once (rules R9 and R11). -/

namespace Sys2Proof.Laws

open Sys2Proof Sys2Proof.Machine

/-! ## Rounding a signed value -/

theorem valueOf_withSign (neg : Bool) {m : Nat} (h : m < 2 ^ 31) : valueOf (withSign neg m) = applySign neg (gridValue m) := by
  rw [valueOf_eq_gridValue, fsign_withSign neg h, magnitude_withSign neg h]

theorem getLsbD_withSign (neg : Bool) {m : Nat} (h : m < 2 ^ 31) : (withSign neg m).getLsbD 0 = decide (m % 2 = 1) := by
  rw [BitVec.getLsbD, toNat_withSign neg h, Nat.testBit_zero]
  congr 2
  split <;> omega

/-- The nearest magnitude with the sign of the exact value is the nearest pattern: a pattern of the other sign is at least as far
away as zero. -/
theorem nearestEven_withSign (neg : Bool) {B : Nat} {x : ℚ} (h : Rounds B x) (hB : B < 0x7F800000) (hx : 0 ≤ x) :
    NearestEven (withSign neg B) (applySign neg x) := by
  have hB' : B < 2 ^ 31 := by omega
  refine ⟨(isFinite_iff _).2 (by rwa [magnitude_withSign neg hB']), fun c hc => ?_⟩
  rw [valueOf_withSign neg hB', getLsbD_withSign neg hB', valueOf_eq_gridValue c, abs_applySign_sub, decide_eq_false_iff_not]
  obtain ⟨hle, heq⟩ := h.abs_sub_le (magnitude c)
  by_cases hs : fsign c = neg
  · rw [hs, abs_applySign_sub]
    refine ⟨hle, fun he hne => ?_⟩
    have := heq he (fun hC => hne (by rw [hC]))
    omega
  · have hc := gridValue_nonneg (magnitude c)
    obtain ⟨hle, heq⟩ := h.abs_sub_le 0
    rw [gridValue_zero, zero_sub, abs_neg, abs_of_nonneg hx] at hle heq
    rw [abs_applySign_sub_of_ne hs, abs_of_nonneg (add_nonneg hc hx)]
    refine ⟨by linarith, fun he _ => ?_⟩
    have := heq (by linarith)
    omega

theorem gridValue_largest : gridValue 0x7F7FFFFF = 2 ^ 128 - 2 ^ 104 := by
  rw [show 0x7F7FFFFF = 253 * 2 ^ 23 + 16777215 by norm_num, gridValue_add (by norm_num) (by norm_num)]
  norm_num

theorem gridValue_inf : gridValue 0x7F800000 = 2 ^ 128 := by
  rw [show 0x7F800000 = 253 * 2 ^ 23 + 2 ^ 24 by norm_num, gridValue_add (by norm_num) (by norm_num)]
  norm_num

/-- The nearest magnitude is a finite pattern's for the values below the bound of overflow. -/
theorem Rounds.lt_inf_iff {B : Nat} {x : ℚ} (h : Rounds B x) : B < 0x7F800000 ↔ x < 2 ^ 128 - 2 ^ 103 := by
  constructor
  · intro hB
    obtain ⟨hle, heq⟩ := h.above 0x7F800000 hB
    have hmono := gridValue_strictMono.monotone (show B ≤ 0x7F7FFFFF by omega)
    rw [gridValue_inf] at hle heq
    rw [gridValue_largest] at hmono
    refine lt_of_le_of_ne (by linarith) fun hx => ?_
    have hBv : gridValue B = gridValue 0x7F7FFFFF := by rw [gridValue_largest]; linarith
    obtain rfl := gridValue_strictMono.injective hBv
    exact absurd (heq (by rw [gridValue_largest, hx]; ring)) (by decide)
  · intro hx
    by_contra hB
    obtain ⟨hle, -⟩ := h.below 0x7F7FFFFF (by omega)
    have hmono := gridValue_strictMono.monotone (show 0x7F800000 ≤ B by omega)
    rw [gridValue_inf] at hmono
    rw [gridValue_largest] at hle
    linarith

/-- r is the exact value t rounded once: nearest even below the bound of overflow, else the infinity of its sign (R9). -/
def RoundedOnce (r : F32) (t : ℚ) : Prop :=
  (|t| < 2 ^ 128 - 2 ^ 103 → NearestEven r t) ∧ (2 ^ 128 - 2 ^ 103 ≤ |t| → r = withSign (decide (t < 0)) 0x7F800000)

theorem roundedOnce_roundTo (neg : Bool) {m : Nat} {e : Int} {x : ℚ} (h : StandsFor m e x) :
    RoundedOnce (roundTo neg m e) (applySign neg x) := by
  have hB := rounds_roundBits h
  rw [RoundedOnce, roundTo_eq_withSign, abs_applySign, abs_of_nonneg h.nonneg]
  constructor
  · intro hx
    have hlt := hB.lt_inf_iff.2 hx
    rw [Nat.min_eq_left hlt.le]
    exact nearestEven_withSign neg hB hlt h.nonneg
  · intro hx
    have hpos : 0 < x := lt_of_lt_of_le (by norm_num) hx
    rw [Nat.min_eq_right (not_lt.1 fun hlt => absurd (hB.lt_inf_iff.1 hlt) hx.not_gt)]
    congr 1
    rw [Bool.eq_iff_iff, decide_eq_true_iff, applySign_neg_iff neg hpos]

theorem roundedOnce_zero (neg : Bool) : RoundedOnce (withSign neg 0) 0 := by
  have := roundedOnce_roundTo neg (m := 0) (e := 0) (x := 0) (.inl (by simp))
  rwa [roundTo_zero, show applySign neg 0 = 0 by cases neg <;> simp [applySign]] at this

theorem applySign_natAbs (z : Int) : applySign (decide (z < 0)) z.natAbs = z := by
  rw [applySign, Nat.cast_natAbs]
  rcases lt_or_ge z 0 with hz | hz
  · simp [hz, abs_of_neg hz]
  · simp [hz.not_gt, abs_of_nonneg hz]

/-- A signed significand rounded. -/
theorem roundedOnce_int (z e : Int) : RoundedOnce (roundTo (decide (z < 0)) z.natAbs e) (z * 2 ^ e) := by
  have := roundedOnce_roundTo (decide (z < 0)) (m := z.natAbs) (e := e) (.inl rfl)
  have hx : applySign (decide (z < 0)) (z.natAbs * 2 ^ e) = z * 2 ^ e := by
    rw [← applySign_natAbs z]
    cases decide (z < 0) <;> simp [applySign]
  rwa [hx] at this

/-! ## The operations -/

theorem valueOf_add_valueOf (a b : F32) :
    valueOf a + valueOf b = sumSignificand a b * 2 ^ min (fscale a) (fscale b) := by
  unfold valueOf sumSignificand
  rw [zpow_eq_mul_pow (min_le_left (fscale a) (fscale b)), zpow_eq_mul_pow (min_le_right (fscale a) (fscale b))]
  push_cast
  ring

theorem roundedOnce_fadd {a b : F32} (ha : IsFinite a) (hb : IsFinite b) : RoundedOnce (fadd a b) (valueOf a + valueOf b) := by
  rw [valueOf_add_valueOf, fadd_finite ha hb]
  split
  · case isTrue hz =>
    rw [hz, Int.cast_zero, zero_mul]
    exact roundedOnce_zero _
  · exact roundedOnce_int _ _

theorem roundedOnce_fsub {a b : F32} (ha : IsFinite a) (hb : IsFinite b) : RoundedOnce (fsub a b) (valueOf a - valueOf b) := by
  rw [sub_eq_add_neg, ← valueOf_fneg]
  exact roundedOnce_fadd ha (by simpa [IsFinite] using hb)

theorem roundedOnce_fmul {a b : F32} (ha : IsFinite a) (hb : IsFinite b) : RoundedOnce (fmul a b) (valueOf a * valueOf b) := by
  rw [valueOf_eq_gridValue, valueOf_eq_gridValue b, applySign_mul, fmul_finite ha hb]
  refine roundedOnce_roundTo _ (.inl ?_)
  rw [gridValue_magnitude, gridValue_magnitude, zpow_add₀ (by norm_num)]
  push_cast
  ring

/-- The quotient's significand with its sticky bit stands for the exact quotient. -/
theorem standsFor_quotient (a b : F32) (hb : fmant b ≠ 0) :
    StandsFor (quotientSignificand a b) (fscale a - fscale b - 51) (gridValue (magnitude a) / gridValue (magnitude b)) := by
  have hd : (0 : ℚ) < fmant b := by exact_mod_cast Nat.pos_of_ne_zero hb
  have hx : gridValue (magnitude a) / gridValue (magnitude b) =
      2 * ((fmant a * 2 ^ 50 : Nat) : ℚ) / fmant b * 2 ^ (fscale a - fscale b - 51) := by
    rw [gridValue_magnitude, gridValue_magnitude, zpow_sub₀ (by norm_num), zpow_sub₀ (by norm_num)]
    push_cast
    field_simp
    ring
  have hu : (0 : ℚ) < 2 ^ (fscale a - fscale b - 51) := by positivity
  have hmod := Nat.div_add_mod (fmant a * 2 ^ 50) (fmant b)
  have hlt := Nat.mod_lt (fmant a * 2 ^ 50) (Nat.pos_of_ne_zero hb)
  have hlarge : fmant a ≠ 0 → 2 ^ 26 ≤ fmant a * 2 ^ 50 / fmant b := fun ha =>
    (Nat.le_div_iff_mul_le (Nat.pos_of_ne_zero hb)).2 (by have := fmant_lt b; omega)
  rw [hx, quotientSignificand]
  generalize fmant a * 2 ^ 50 / fmant b = q at *
  generalize fmant a * 2 ^ 50 % fmant b = r at *
  split
  · case isTrue hr =>
    refine .inl ?_
    rw [← hmod, hr]
    push_cast
    field_simp
    ring
  · case isFalse hr =>
    have ha : fmant a ≠ 0 := fun ha => hr (by rw [ha] at hmod; omega)
    have hq := hlarge ha
    refine .inr ⟨by omega, by omega, mul_lt_mul_of_pos_right ?_ hu, mul_lt_mul_of_pos_right ?_ hu⟩
    · rw [lt_div_iff₀ hd]
      have : 2 * q * fmant b < 2 * (fmant a * 2 ^ 50) := by rw [← hmod, Nat.mul_assoc, Nat.mul_comm q]; omega
      rw [Nat.cast_add, Nat.cast_one, add_sub_cancel_right]
      exact_mod_cast this
    · rw [div_lt_iff₀ hd]
      have : 2 * (fmant a * 2 ^ 50) < (2 * q + 2) * fmant b := by rw [← hmod, Nat.add_mul, Nat.mul_assoc, Nat.mul_comm q]; omega
      rw [Nat.cast_add, Nat.cast_one, add_assoc, one_add_one_eq_two]
      exact_mod_cast this

theorem valueOf_eq_zero_iff (a : F32) : valueOf a = 0 ↔ isZero a = true := by
  rw [← abs_eq_zero, valueOf_eq_gridValue, abs_applySign, abs_eq_zero, isZero_iff, ← gridValue_zero,
    gridValue_strictMono.injective.eq_iff]

theorem roundedOnce_fdiv {a b : F32} (ha : IsFinite a) (hb : IsFinite b) (hz : valueOf b ≠ 0) :
    RoundedOnce (fdiv a b) (valueOf a / valueOf b) := by
  rw [Ne, valueOf_eq_zero_iff, Bool.not_eq_true] at hz
  rw [valueOf_eq_gridValue, valueOf_eq_gridValue b, applySign_div, fdiv_finite ha hb hz]
  exact roundedOnce_roundTo _ (standsFor_quotient a b (by rw [Ne, fmant_eq_zero_iff, hz]; decide))

/-! ## The conversion of an integer -/

theorem roundedOnce_i2f (n : Int) : RoundedOnce (i2f n) n := by
  simpa [i2f] using roundedOnce_int n 0

/-- A pattern nearest to a value that a pattern has is of that value. -/
theorem valueOf_eq_of_nearestEven {r c : F32} (hc : IsFinite c) (h : NearestEven r (valueOf c)) : valueOf r = valueOf c := by
  have := (h.2 c hc).1
  rwa [sub_self, abs_zero, abs_nonpos_iff, sub_eq_zero] at this

/-- Up to 2^24 every natural number is the value of a finite magnitude. -/
theorem exists_gridValue_eq_nat {m : Nat} (hm : m ≤ 2 ^ 24) : ∃ C < 0x7F800000, gridValue C = m := by
  rcases Nat.eq_zero_or_pos m with rfl | hpos
  · exact ⟨0, by norm_num, by simp⟩
  obtain ⟨j, hj, hl, hu⟩ : ∃ j ≤ 23, 2 ^ 23 ≤ m * 2 ^ j ∧ m * 2 ^ j ≤ 2 ^ 24 := by
    have hlog : 2 ^ m.log2 ≤ m := Nat.log2_self_le hpos.ne'
    have hlog' : m < 2 ^ (m.log2 + 1) := Nat.lt_log2_self
    rcases hm.lt_or_eq with hlt | rfl
    · have hle : m.log2 < 24 := (Nat.log2_lt hpos.ne').2 hlt
      refine ⟨23 - m.log2, by omega, ?_, ?_⟩
      · calc 2 ^ 23 = 2 ^ m.log2 * 2 ^ (23 - m.log2) := by rw [← pow_add]; congr 1; omega
          _ ≤ m * 2 ^ (23 - m.log2) := Nat.mul_le_mul_right _ hlog
      · calc m * 2 ^ (23 - m.log2) ≤ 2 ^ (m.log2 + 1) * 2 ^ (23 - m.log2) := Nat.mul_le_mul_right _ hlog'.le
          _ = 2 ^ 24 := by rw [← pow_add]; congr 1; omega
    · exact ⟨0, by norm_num, by norm_num, by norm_num⟩
  refine ⟨(149 - j) * 2 ^ 23 + m * 2 ^ j, by omega, ?_⟩
  rw [gridValue_add hu (.inr hl), Nat.cast_mul, mul_assoc]
  push_cast [show j ≤ 149 by omega]
  rw [← zpow_natCast, ← zpow_add₀ (by norm_num), show (j : Int) + (149 - j - 149) = 0 by ring, zpow_zero, mul_one]

/-- The conversion is exact up to 2^24 (R11). -/
theorem valueOf_i2f {n : Int} (hn : n.natAbs ≤ 2 ^ 24) : valueOf (i2f n) = n := by
  obtain ⟨C, hC, hv⟩ := exists_gridValue_eq_nat hn
  have hc : valueOf (withSign (decide (n < 0)) C) = n := by
    rw [valueOf_withSign _ (by omega), hv, applySign_natAbs]
  have hfin : IsFinite (withSign (decide (n < 0)) C) := (isFinite_iff _).2 (by rwa [magnitude_withSign _ (by omega)])
  have hbound : |(n : ℚ)| < 2 ^ 128 - 2 ^ 103 := by
    rw [← Int.cast_abs, Int.abs_eq_natAbs, Int.cast_natCast]
    exact lt_of_le_of_lt (Nat.cast_le.2 hn) (by norm_num)
  rw [← hc]
  exact valueOf_eq_of_nearestEven hfin (hc ▸ (roundedOnce_i2f n).1 hbound)

end Sys2Proof.Laws
end

section
/-! PROOF. One rounding to nearest even (O15). -/

namespace Sys2Proof.Proofs

open Sys2Proof Sys2Proof.Machine Sys2Proof.Laws

/-- Settles O15: the significand each operation hands to `roundTo` stands for the exact result. -/
theorem roundedOnceToNearestEven : Obligations.RoundedOnceToNearestEven := by
  refine ⟨fun a b => rfl, fun a b ha hb => ?_⟩
  obtain ⟨hsub, hsubInf⟩ := roundedOnce_fsub ha hb
  obtain ⟨hadd, haddInf⟩ := roundedOnce_fadd ha hb
  obtain ⟨hmul, hmulInf⟩ := roundedOnce_fmul ha hb
  exact ⟨hsub, hsubInf, hadd, haddInf, hmul, hmulInf, fun hz => (roundedOnce_fdiv ha hb hz).1,
    fun hz => (roundedOnce_fdiv ha hb hz).2⟩

end Sys2Proof.Proofs
end

section
/-! SUPPORT. The integer part of a finite value, rounded down and toward zero (rules R11 and R12). -/

namespace Sys2Proof.Laws

open Sys2Proof Sys2Proof.Machine

/-- A finite value as the quotient of integers that `ffloor` and `ftrunc` divide. -/
theorem valueOf_eq_div (a : F32) :
    valueOf a = ((fsigned a * 2 ^ (fscale a).toNat : Int) : ℚ) / ((2 ^ (-fscale a).toNat : Nat) : ℚ) := by
  have hpow : (2 : ℚ) ^ fscale a * 2 ^ (-fscale a).toNat = 2 ^ (fscale a).toNat := by
    rw [← zpow_natCast, ← zpow_natCast, ← zpow_add₀ (by norm_num)]
    congr 1
    omega
  rw [valueOf, eq_div_iff (by positivity)]
  push_cast
  rw [mul_assoc, hpow]

/-- The value p / q, read off the fields by integer arithmetic. -/
theorem valueOf_eq_of_fields {a : F32} (p : Int) (q : Nat) (hq : q ≠ 0)
    (h : fsigned a * 2 ^ (fscale a).toNat * q = p * 2 ^ (-fscale a).toNat) : valueOf a = p / q := by
  rw [valueOf_eq_div, div_eq_div_iff (by positivity) (by exact_mod_cast hq)]
  exact_mod_cast h

/-! ## The constants of R11 and R12 -/

theorem valueOf_fHalf : valueOf fHalf = 1 / 2 := by simpa using valueOf_eq_of_fields (a := fHalf) 1 2 (by decide) (by decide)
theorem valueOf_fOne : valueOf fOne = 1 := by simpa using valueOf_eq_of_fields (a := fOne) 1 1 (by decide) (by decide)
theorem valueOf_fOneHalf : valueOf fOneHalf = 3 / 2 := by
  simpa using valueOf_eq_of_fields (a := fOneHalf) 3 2 (by decide) (by decide)
theorem valueOf_fTwo : valueOf fTwo = 2 := by simpa using valueOf_eq_of_fields (a := fTwo) 2 1 (by decide) (by decide)
theorem valueOf_fTwoHalf : valueOf fTwoHalf = 5 / 2 := by
  simpa using valueOf_eq_of_fields (a := fTwoHalf) 5 2 (by decide) (by decide)
theorem valueOf_f32767 : valueOf f32767 = 32767 := by
  simpa using valueOf_eq_of_fields (a := f32767) 32767 1 (by decide) (by decide)
theorem valueOf_f32768 : valueOf f32768 = 32768 := by
  simpa using valueOf_eq_of_fields (a := f32768) 32768 1 (by decide) (by decide)
theorem valueOf_fMinus32768 : valueOf fMinus32768 = -32768 := by
  simpa using valueOf_eq_of_fields (a := fMinus32768) (-32768) 1 (by decide) (by decide)
theorem valueOf_f44100 : valueOf f44100 = 44100 := by
  simpa using valueOf_eq_of_fields (a := f44100) 44100 1 (by decide) (by decide)
theorem valueOf_f22050 : valueOf f22050 = 22050 := by
  simpa using valueOf_eq_of_fields (a := f22050) 22050 1 (by decide) (by decide)
theorem valueOf_f2048 : valueOf f2048 = 2048 := by
  simpa using valueOf_eq_of_fields (a := f2048) 2048 1 (by decide) (by decide)
theorem valueOf_fTwoPowMinus16 : valueOf fTwoPowMinus16 = 1 / 65536 := by
  simpa using valueOf_eq_of_fields (a := fTwoPowMinus16) 1 65536 (by decide) (by decide)

/-! ## Floor and truncation -/

theorem ffloor_eq_floor {a : F32} (h : IsFinite a) : ffloor a = some ⌊valueOf a⌋ := by
  rw [valueOf_eq_div, Rat.floor_intCast_div_natCast, ffloor, if_neg h]
  norm_cast

theorem ftrunc_of_nonneg {a : F32} (h : 0 ≤ valueOf a) : ftrunc a = ⌊valueOf a⌋ := by
  have hn : 0 ≤ fsigned a * 2 ^ (fscale a).toNat := by
    rw [valueOf_eq_div, le_div_iff₀ (by positivity), zero_mul] at h
    exact_mod_cast h
  rw [valueOf_eq_div, Rat.floor_intCast_div_natCast, ftrunc, Int.tdiv_eq_ediv_of_nonneg hn]
  norm_cast

@[simp] theorem ftrunc_fneg (a : F32) : ftrunc (fneg a) = -ftrunc a := by simp [ftrunc, Int.neg_tdiv]

theorem ftrunc_of_nonpos {a : F32} (h : valueOf a ≤ 0) : ftrunc a = ⌈valueOf a⌉ := by
  have := ftrunc_of_nonneg (a := fneg a) (by simpa using h)
  rw [ftrunc_fneg, valueOf_fneg, Int.floor_neg] at this
  exact neg_injective this

end Sys2Proof.Laws
end

section
/-! PROOF. Conversions and constants (O16). -/

namespace Sys2Proof.Proofs

open Sys2Proof Sys2Proof.Machine Sys2Proof.Laws

/-- Settles O16: i2f rounds the exact integer, ffloor divides the exact value's parts, and each constant is read off its fields. -/
theorem conversions : Obligations.Conversions := by
  refine ⟨fun n hn => (roundedOnce_i2f n).1 ?_, fun n => valueOf_i2f,
    fun a ha => ⟨_, ffloor_eq_floor ha, Int.floor_le _, Int.lt_floor_add_one _⟩, ?_⟩
  · rw [← Int.cast_abs, Int.abs_eq_natAbs, Int.cast_natCast]
    exact (Nat.cast_lt (α := ℚ).2 hn).trans_eq (by norm_num)
  · exact ⟨valueOf_fHalf, valueOf_fOne, valueOf_fOneHalf, valueOf_fTwo, valueOf_fTwoHalf, valueOf_f32767, valueOf_f32768,
      valueOf_f44100, valueOf_f22050, valueOf_f2048, valueOf_fTwoPowMinus16, rfl⟩

end Sys2Proof.Proofs
end

section
/-! SUPPORT. The conversion to PCM (rule R12), and the frame of a write to one operand register. -/

namespace Sys2Proof.Laws

open Sys2Proof Sys2Proof.Machine

theorem pcm16_of_isNaN {v : F32} (h : isNaN (fmul v f32767) = true) : pcm16 v = 0 := by simp [pcm16, h]

theorem toInt_pcm16_of_ge {v : F32} (h : fle f32767 (fmul v f32767) = true) : (pcm16 v).toInt = 32767 := by
  obtain ⟨-, hn, -⟩ := (fle_iff _ _).1 h
  simp [pcm16, hn, h]

theorem toInt_pcm16_of_le {v : F32} (h : fle (fmul v f32767) fMinus32768 = true) : (pcm16 v).toInt = -32768 := by
  obtain ⟨hn, -, hle⟩ := (fle_iff _ _).1 h
  have hge : fle f32767 (fmul v f32767) = false := by
    rw [← Bool.not_eq_true, fle_iff]
    rintro ⟨-, -, hge⟩
    exact absurd (hge.trans hle) (by decide)
  simp [pcm16, hn, hge, h]

theorem pcm16_of_between {v : F32} (hn : isNaN (fmul v f32767) = false) (hge : fle f32767 (fmul v f32767) = false)
    (hle : fle (fmul v f32767) fMinus32768 = false) : pcm16 v = BitVec.ofInt 16 (ftrunc (fmul v f32767)) := by
  simp [pcm16, hn, hge, hle]

/-- Truncation toward zero stays between the integers around a value. -/
theorem ftrunc_mem_range {a : F32} {lo hi : Int} (hlo : (lo : ℚ) ≤ valueOf a) (hhi : valueOf a ≤ hi) :
    lo ≤ ftrunc a ∧ ftrunc a ≤ hi := by
  rcases le_total 0 (valueOf a) with h | h
  · rw [ftrunc_of_nonneg h]
    exact ⟨Int.le_floor.2 hlo, Int.floor_le_iff.2 (by linarith)⟩
  · rw [ftrunc_of_nonpos h]
    exact ⟨Int.le_ceil_iff.2 (by linarith), Int.ceil_le.2 hhi⟩

/-- Inside the range the integer is the truncation, at both ends too, where saturation gives the same. -/
theorem toInt_pcm16_of_inside {v : F32} (hlo : fle fMinus32768 (fmul v f32767) = true)
    (hhi : fle (fmul v f32767) f32767 = true) : (pcm16 v).toInt = ftrunc (fmul v f32767) := by
  have hfin : IsFinite (fmul v f32767) := isFinite_of_fle (by decide) (by decide) hlo hhi
  have hvlo := (fle_iff_valueOf (by decide) hfin).1 hlo
  have hvhi := (fle_iff_valueOf hfin (by decide)).1 hhi
  rw [valueOf_fMinus32768] at hvlo
  rw [valueOf_f32767] at hvhi
  obtain ⟨htlo, hthi⟩ := ftrunc_mem_range (lo := -32768) (hi := 32767) (by exact_mod_cast hvlo) (by exact_mod_cast hvhi)
  cases hge : fle f32767 (fmul v f32767)
  case true =>
    have hv := (fle_iff_valueOf (by decide) hfin).1 hge
    rw [valueOf_f32767] at hv
    have := (ftrunc_mem_range (lo := 32767) (by exact_mod_cast hv) (by exact_mod_cast hvhi)).1
    rw [toInt_pcm16_of_ge hge]
    omega
  cases hle : fle (fmul v f32767) fMinus32768
  case true =>
    have hv := (fle_iff_valueOf hfin (by decide)).1 hle
    rw [valueOf_fMinus32768] at hv
    have := (ftrunc_mem_range (hi := -32768) (by exact_mod_cast hvlo) (by exact_mod_cast hv)).2
    rw [toInt_pcm16_of_le hle]
    omega
  rw [pcm16_of_between (isNaN_of_isFinite hfin) hge hle, BitVec.toInt_ofInt_eq_self (by norm_num) (by omega) (by omega)]

/-- A write to one operand register changes nothing else. -/
theorem onlyX_setX (s : State) (rd : Reg) (v : Word) : OnlyX s (s.setX rd v) [rd] where
  left :=
    { regs := fun r hr => getX_setX_ne s v (by simpa using hr)
      tracks := fun _ _ => rfl
      bytes := fun _ _ => rfl
      rest := rfl }
  right := rfl

theorem exec_mixCvt (s : State) (rd rs : Reg) :
    exec (.mixCvt rd rs) s = .next (s.setX rd ((pcm16 (s.getX rs)).signExtend 32)) := rfl

end Sys2Proof.Laws
end

section
/-! PROOF. The conversion to PCM (O17). -/

namespace Sys2Proof.Proofs

open Sys2Proof Sys2Proof.Machine Sys2Proof.Laws

/-- Settles O17: the branches of `pcm16`, with the truncation that is the floor above zero and the ceiling below. -/
theorem pcmConversion : Obligations.PcmConversion := by
  refine ⟨fun v => pcm16_of_isNaN, fun v => toInt_pcm16_of_ge, fun v => toInt_pcm16_of_le, fun v hlo hhi => ?_,
    by decide +kernel, by decide +kernel, fun s rd rs => ⟨_, exec_mixCvt s rd rs, ?_, onlyX_setX s rd _⟩⟩
  · rw [toInt_pcm16_of_inside hlo hhi]
    exact ⟨ftrunc_of_nonneg, ftrunc_of_nonpos⟩
  · rw [getX_setX_same, BitVec.toInt_signExtend_of_le (by norm_num)]

end Sys2Proof.Proofs
end

section
/-! SUPPORT. What a unit of the render agent can do: the changes it makes to its track, each with the guard it stands under, and
what it leaves of the rest of the state. A unit operation is described once here; an invariant of the tracks is then a case split
over the changes. -/

namespace Sys2Proof.Laws

open Sys2Proof Sys2Proof.Machine Relation

/-! ## Changes of a track -/

/-- One change a unit operation of the render schedule makes to its track (R140 to R214). -/
inductive UnitChange : Track → Track → Prop
  /-- VOX.TRIG, VOX.OFF and a tick of the glide (R209, R210, R213). -/
  | voice (tr : Track) (gate : Bool) (amp fcur ftgt ginc : F32) (gcnt : BitVec 16) :
    UnitChange tr { tr with gate := gate, amp := amp, fcur := fcur, ftgt := ftgt, ginc := ginc, gcnt := gcnt }
  /-- OSC.SETF (R140). -/
  | tune (tr : Track) (f : F32) (owti : BitVec 7) :
    UnitChange tr { tr with ofreq := clampf f 0 f22050, oinc := fdiv (clampf f 0 f22050) f44100, owti := owti }
  /-- OSC.TICK (R141). -/
  | phase (tr : Track) : UnitChange tr { tr with ophase := nextPhase tr.ophase tr.oinc }
  /-- SMP.TRIG (R144). -/
  | rewind (tr : Track) : UnitChange tr { tr with spos := 0 }
  /-- SMP.TICK before the end of the buffer (R145). -/
  | sample (tr : Track) (h : tr.spos.toNat < tr.slen.toNat) : UnitChange tr { tr with spos := tr.spos + 1 }
  /-- APF.PROC (R161). -/
  | stage (tr : Track) (v : Fin Config.NSTAGE) (h : tr.apidx[v.val].toNat < Config.REVLEN v) :
    UnitChange tr (tr.setApidx v (BitVec.ofNat 10 ((tr.apidx[v.val].toNat + 1) % Config.REVLEN v)))
  /-- HPF.PROC (R165). -/
  | highPass (tr : Track) (v : Fin Config.NHPF) (x y : F32) :
    UnitChange tr (tr.setHpf v { tr.hpf[v.val] with x1 := x, y1 := y })
  /-- DLY.OUT (R178). -/
  | delay (tr : Track) :
    UnitChange tr { tr with drate := (countdown tr).1, dcnt := (countdown tr).2, dwp := advanceWrite tr,
                            drp := BitVec.ofNat 32 (advanceRead tr) }
  /-- REV.IN and the consumption of the bus by REV.PROC (R196, R197). -/
  | bus (tr : Track) (x : F32) : UnitChange tr { tr with rbus := x }
  /-- SEQ.TICK at a step boundary (R206). -/
  | boundary (tr : Track) (q : BitVec 4) : UnitChange tr { tr with step := q, scnt := tr.sps - 1 }
  /-- SEQ.TICK between two boundaries (R206). -/
  | countDown (tr : Track) (h : tr.scnt ≠ 0) : UnitChange tr { tr with scnt := tr.scnt - 1 }

/-! ## What the rest of the state keeps -/

/-- What the render agent leaves alone: X, ERRINFO, the rejection bits of ERR, every byte below the first space it writes (DL), and
of each track what no unit changes (R241, R260). -/
structure RenderFrame (s u : State) : Prop where
  x : u.x = s.x
  errinfo : u.errinfo = s.errinfo
  rejections : u.err &&& 0x03F = s.err &&& 0x03F
  bytes : ∀ a < Space.base .dl, u.mem.byte a = s.mem.byte a
  tracks : ∀ k, ReflTransGen UnitChange (s.track k) (u.track k)

/-- What a unit operation leaves alone: the agent's frame and the position (R238). -/
structure UnitFrame (s u : State) : Prop extends RenderFrame s u where
  rpos : u.rpos = s.rpos

theorem track_eq_of_tracks {s u : State} (h : u.tracks = s.tracks) (k : Fin Config.NTRK) : u.track k = s.track k := by
  simp only [State.track, h]

theorem base_le_base {sp sp' : Space} (h : sp.index ≤ sp'.index) : sp.base ≤ sp'.base := Nat.mul_le_mul_right _ h

theorem RenderFrame.trans {s u v : State} (h : RenderFrame s u) (h' : RenderFrame u v) : RenderFrame s v where
  x := h'.x.trans h.x
  errinfo := h'.errinfo.trans h.errinfo
  rejections := h'.rejections.trans h.rejections
  bytes a ha := (h'.bytes a ha).trans (h.bytes a ha)
  tracks k := (h.tracks k).trans (h'.tracks k)

/-- A state that differs only in what the frame does not speak of. -/
theorem RenderFrame.of_eq {s u : State} (hx : u.x = s.x) (hinfo : u.errinfo = s.errinfo)
    (herr : u.err &&& 0x03F = s.err &&& 0x03F) (hmem : u.mem = s.mem) (htracks : u.tracks = s.tracks) : RenderFrame s u where
  x := hx
  errinfo := hinfo
  rejections := herr
  bytes a _ := by rw [hmem]
  tracks k := by rw [track_eq_of_tracks htracks]

namespace UnitFrame

theorem refl (s : State) : UnitFrame s s := ⟨.of_eq rfl rfl rfl rfl rfl, rfl⟩

theorem trans {s u v : State} (h : UnitFrame s u) (h' : UnitFrame u v) : UnitFrame s v :=
  ⟨h.toRenderFrame.trans h'.toRenderFrame, h'.rpos.trans h.rpos⟩

theorem setTrack {s : State} {k : Fin Config.NTRK} {tr : Track} (h : UnitChange (s.track k) tr) :
    UnitFrame s (s.setTrack k tr) where
  x := rfl
  errinfo := rfl
  rejections := rfl
  bytes _ _ := rfl
  tracks j := by
    rw [track_setTrack]
    split
    · case isTrue hj => subst hj; exact .single h
    · exact .refl
  rpos := rfl

/-- A condition that is no rejection leaves the rejection bits (R262). -/
theorem flagIf (s : State) (b : Bool) {c : Condition} (hc : 6 ≤ c.code) : UnitFrame s (s.flagIf b c) where
  x := flagIf_x s b c
  errinfo := flagIf_errinfo s b c
  rejections := by
    have hbit : c.bit &&& 0x03F = 0 := by cases c <;> revert hc <;> decide
    cases b
    · rfl
    · rw [flagIf_err, if_pos rfl, BitVec.and_or_distrib_right, hbit]
      exact BitVec.or_zero
  bytes a _ := by rw [flagIf_mem]
  tracks j := by rw [flagIf_track]
  rpos := flagIf_rpos s b c

/-- A store to a space from DL on (DL, DR, AP, PB). -/
theorem setWordAt (s : State) {sp : Space} (hsp : Space.index .dl ≤ sp.index) (a : Nat) (v : Word) :
    UnitFrame s (s.setWordAt sp a v) where
  x := setWordAt_x s sp a v
  errinfo := setWordAt_errinfo s sp a v
  rejections := by rw [setWordAt_err]
  bytes b hb := byte_setWord_ne _ v (.inl (hb.trans_le ((base_le_base hsp).trans (Nat.le_add_right _ _))))
  tracks j := by rw [setWordAt_track]
  rpos := setWordAt_rpos s sp a v

end UnitFrame

/-! ## Each unit operation -/

theorem oscSetf_unitFrame (k : Fin Config.NTRK) (f : F32) (s : State) : UnitFrame s (oscSetf k f s) :=
  (UnitFrame.setTrack (.tune _ f _)).trans (.flagIf _ _ (by decide))

theorem oscTick_unitFrame {k : Fin Config.NTRK} {s u : State} {y : F32} (h : oscTick k s = .ok (y, u)) : UnitFrame s u := by
  obtain ⟨i, -, -, rfl⟩ := oscTick_ok h
  exact .setTrack (.phase _)

theorem smpTrig_unitFrame (k : Fin Config.NTRK) (s : State) : UnitFrame s (smpTrig k s) := .setTrack (.rewind _)

theorem smpTick_unitFrame {k : Fin Config.NTRK} {s u : State} {y : F32} (h : smpTick k s = .ok (y, u)) : UnitFrame s u := by
  obtain ⟨hlt, -, rfl⟩ | ⟨-, -, rfl⟩ := smpTick_ok h
  · exact .setTrack (.sample _ hlt)
  · exact .refl _

theorem apfProc_unitFrame {k : Fin Config.NTRK} {v : Fin Config.NSTAGE} {x y : F32} {s u : State}
    (h : apfProc k v x s = .ok (y, u)) : UnitFrame s u := by
  obtain ⟨hlt, -, rfl⟩ := apfProc_ok h
  exact (UnitFrame.setWordAt _ (by decide) _ _).trans (UnitFrame.setTrack (.stage _ v hlt))

theorem hpfProc_unitFrame (k : Fin Config.NTRK) (v : Fin Config.NHPF) (x : F32) (s : State) : UnitFrame s (hpfProc k v x s).2 :=
  .setTrack (.highPass _ v _ _)

theorem dlyIn_unitFrame (k : Fin Config.NTRK) (x : F32) (s : State) : UnitFrame s (dlyIn k x s) :=
  (UnitFrame.setWordAt s (by decide) _ _).trans (.setWordAt _ (by decide) _ _)

theorem dlyOut_unitFrame (k : Fin Config.NTRK) (s : State) : UnitFrame s (dlyOut k s).2 :=
  (UnitFrame.setTrack (.delay (s.track k))).trans <| (hpfProc_unitFrame k 0 _ _).trans <| (hpfProc_unitFrame k 1 _ _).trans <|
    (UnitFrame.setWordAt _ (by decide) _ _).trans (.setWordAt _ (by decide) _ _)

theorem revIn_unitFrame (k : Fin Config.NTRK) (x : F32) (s : State) : UnitFrame s (revIn k x s) := .setTrack (.bus _ _)

theorem apfChain_unitFrame {k : Fin Config.NTRK} {stages : List (Fin Config.NSTAGE)} {x y : F32} {s u : State}
    (h : apfChain k stages x s = .ok (y, u)) : UnitFrame s u := by
  induction stages generalizing x s with
  | nil => cases h; exact .refl _
  | cons v rest ih =>
    unfold apfChain at h
    split at h
    · exact (apfProc_unitFrame ‹_›).trans (ih h)
    · cases h

theorem revProc_unitFrame {k : Fin Config.NTRK} {s u : State} {y : F32 × F32} (h : revProc k s = .ok (y, u)) : UnitFrame s u := by
  obtain ⟨s1, hleft, hright⟩ := revProc_ok h
  exact (UnitFrame.setTrack (.bus _ 0)).trans ((apfChain_unitFrame hleft).trans (apfChain_unitFrame hright))

theorem restartSampler_unitFrame (k : Fin Config.NTRK) (s : State) : UnitFrame s (restartSampler k s) := by
  unfold restartSampler
  split
  · exact smpTrig_unitFrame k s
  · exact .refl s

theorem voxTrig_unitFrame (k : Fin Config.NTRK) (note : BitVec 8) (accent slide : Bool) (s : State) :
    UnitFrame s (voxTrig k note accent slide s) := by
  unfold voxTrig
  dsimp only
  refine UnitFrame.trans ?_ (.setTrack (.voice _ true _ _ _ _ _))
  split
  · exact .setTrack (.voice (s.track k) _ _ _ _ _ _)
  · exact (UnitFrame.setTrack (.voice (s.track k) _ _ _ _ _ _)).trans
      ((oscSetf_unitFrame k _ _).trans (restartSampler_unitFrame k _))

theorem voxOff_unitFrame (k : Fin Config.NTRK) (s : State) : UnitFrame s (voxOff k s) := .setTrack (.voice _ false _ _ _ _ _)

theorem glideTick_unitFrame (k : Fin Config.NTRK) (s : State) : UnitFrame s (glideTick k s) := by
  unfold glideTick
  dsimp only
  split
  · exact (UnitFrame.setTrack (.voice (s.track k) _ _ _ _ _ _)).trans (oscSetf_unitFrame k _ _)
  · exact .refl s

theorem sourceTick_unitFrame {k : Fin Config.NTRK} {s u : State} {y : F32} (h : sourceTick k s = .ok (y, u)) :
    UnitFrame s u := by
  unfold sourceTick at h
  split at h
  · exact oscTick_unitFrame h
  · exact smpTick_unitFrame h

theorem voxTick_unitFrame {k : Fin Config.NTRK} {s u : State} {v : Voice} (h : voxTick k s = .ok (v, u)) : UnitFrame s u := by
  obtain ⟨raw, s1, hsource, rfl, -⟩ := voxTick_ok h
  exact (glideTick_unitFrame k s).trans ((sourceTick_unitFrame hsource).trans (hpfProc_unitFrame k 2 raw s1))

theorem playSlot_unitFrame (k : Fin Config.NTRK) (q : BitVec 4) (s : State) : UnitFrame s (playSlot k q s) := by
  unfold playSlot
  split
  · exact voxOff_unitFrame k s
  · exact voxTrig_unitFrame k _ _ _ s

/-- SEQ.TICK at a boundary: the slot is played, and SCNT is already one below SPS (R206). -/
theorem seqTick_of_boundary {k : Fin Config.NTRK} {s : State} (h : (s.track k).scnt = 0) :
    seqTick k s = (playSlot k (s.track k).step s).setTrack k
      { (playSlot k (s.track k).step s).track k with
        step := (s.track k).step + 1, scnt := ((playSlot k (s.track k).step s).track k).sps - 1 } := by
  simp [seqTick, stepBoundary, h]

theorem seqTick_of_between {k : Fin Config.NTRK} {s : State} (h : (s.track k).scnt ≠ 0) :
    seqTick k s = s.setTrack k { s.track k with scnt := (s.track k).scnt - 1 } := by
  simp only [seqTick, if_neg h]

theorem seqTick_unitFrame (k : Fin Config.NTRK) (s : State) : UnitFrame s (seqTick k s) := by
  by_cases h : (s.track k).scnt = 0
  · rw [seqTick_of_boundary h]
    exact (playSlot_unitFrame k _ s).trans (.setTrack (.boundary _ _))
  · rw [seqTick_of_between h]
    exact .setTrack (.countDown _ h)

theorem accumulate_unitFrame (k : Fin Config.NTRK) (l r : F32) (s : State) : UnitFrame s (accumulate k l r s) :=
  ⟨.of_eq rfl rfl rfl rfl rfl, rfl⟩

theorem mixTrk_unitFrame {k : Fin Config.NTRK} {s u : State} (h : mixTrk k s = .ok u) : UnitFrame s u := by
  obtain ⟨v, s1, r, s3, hvoice, hreverb, rfl⟩ := mixTrk_ok h
  exact (voxTick_unitFrame hvoice).trans <| (dlyIn_unitFrame k _ s1).trans <| (dlyOut_unitFrame k _).trans <|
    (revIn_unitFrame k _ _).trans <| (revProc_unitFrame hreverb).trans (accumulate_unitFrame k _ _ s3)

end Sys2Proof.Laws
end

section
/-! SUPPORT. The register lists of R26 and R28: an index and a value stand in them exactly when the index names a register that reads
as the value. -/

namespace Sys2Proof.Laws

open Sys2Proof Sys2Proof.Machine

/-- The entry the model's index map gives for index n. -/
def csrEntry (tr : Track) (n : Nat) : Option (BitVec 8 × Word) :=
  (trackReg (BitVec.ofNat 8 n)).map fun r => (BitVec.ofNat 8 n, r.read tr)

/-- The entries of `len` indices from `start` on. -/
def csrEntries (tr : Track) (start len : Nat) : List (BitVec 8 × Word) := (List.range' start len).filterMap (csrEntry tr)

theorem voiceRegisters_eq (tr : Track) : voiceRegisters tr = csrEntries tr 0x00 0x18 := by
  obtain ⟨vol, pan, kind, root, dsend, rsend, glide, seqvol, bpm, sps, step, scnt, gate, amp, fcur, ftgt, ginc, gcnt⟩ := tr
  cases kind <;> cases gate <;> rfl

theorem unitRegisters_eq (tr : Track) : unitRegisters tr = csrEntries tr 0x18 0x10 := rfl

theorem filterRegisters_eq (tr : Track) : filterRegisters tr = csrEntries tr 0x28 0x20 := rfl

theorem stageConstants_eq (tr : Track) : stageConstants = csrEntries tr 0x48 0x10 := rfl

/-- The list of R28 is the index map of the model, each register with what it reads as. -/
theorem trackRegisters_eq (tr : Track) : trackRegisters tr = csrEntries tr 0x00 0x58 := by
  rw [trackRegisters, voiceRegisters_eq, unitRegisters_eq, filterRegisters_eq, stageConstants_eq tr]
  simp only [csrEntries, ← List.filterMap_append]
  rfl

theorem trackReg_lt {c : BitVec 8} {r : TrackReg} (h : trackReg c = some r) : c.toNat < 0x58 := by
  have : ∀ c : BitVec 8, (trackReg c).isSome → c.toNat < 0x58 := by decide
  exact this c (by rw [h]; rfl)

theorem mem_trackRegisters {tr : Track} {p : BitVec 8 × Word} :
    p ∈ trackRegisters tr ↔ ∃ r, trackReg p.1 = some r ∧ r.read tr = p.2 := by
  simp only [trackRegisters_eq, csrEntries, csrEntry, List.mem_filterMap, Option.map_eq_some_iff]
  constructor
  · rintro ⟨n, -, r, hr, rfl⟩
    exact ⟨r, hr, rfl⟩
  · rintro ⟨r, hr, hp⟩
    have hn : BitVec.ofNat 8 p.1.toNat = p.1 := by simp
    exact ⟨p.1.toNat, by simpa using trackReg_lt hr, r, by rw [hn, hr], by rw [hn, hp]⟩

/-- STATUS as read is the sum of its bits (R23). -/
theorem status_toWord (st : Status) : st.toWord = BitVec.ofNat 32 (st.running.toNat + 2 * st.paused.toNat + 4 * st.active.toNat +
    8 * st.fatal.toNat + 16 * st.devok.toNat + 32 * st.capok.toNat) := by
  obtain ⟨running, paused, active, fatal, devok, capok⟩ := st
  revert running paused active fatal devok capok
  decide

/-- RPOS as read is the sum of its shifted fields (R22). -/
theorem rpos_toWord (p : RenderPos) :
    p.toWord = BitVec.ofNat 32 (p.pbuf.val * 2 ^ 24 + p.slot.val * 2 ^ 16 + p.pframe.val) := by
  have hbuf : p.pbuf.val < 2 := p.pbuf.isLt
  have hslot : p.slot.val < 9 := p.slot.isLt
  have hframe : p.pframe.val < 1024 := p.pframe.isLt
  apply BitVec.eq_of_toNat_eq
  simp only [RenderPos.toWord, BitVec.toNat_append, BitVec.toNat_ofNat]
  rw [← Nat.shiftLeft_add_eq_or_of_lt (by omega), ← Nat.shiftLeft_add_eq_or_of_lt (by omega)]
  omega

/-- Every entry of the list of R26 is a register of the model with what it reads as. -/
theorem globalReg_of_mem {s : State} {p : BitVec 8 × Word} (h : p ∈ globalRegisters s) :
    ∃ g, globalReg p.1 = some g ∧ g.read s = p.2 := by
  revert p
  simp only [globalRegisters, List.forall_mem_cons]
  refine ⟨⟨.status, rfl, status_toWord _⟩, ⟨.err, rfl, rfl⟩, ⟨.errinfo, rfl, rfl⟩, ⟨.rpos, rfl, rpos_toWord _⟩,
    ⟨.bufcnt, rfl, rfl⟩,
    ⟨.bytecnt, rfl, rfl⟩, ⟨.maccl, rfl, rfl⟩, ⟨.maccr, rfl, rfl⟩, ⟨.cfg, rfl, rfl⟩, ⟨.buflen, rfl, rfl⟩, ⟨.srate, rfl, rfl⟩,
    ⟨.capacity, rfl, rfl⟩, ⟨.wtgeo, rfl, rfl⟩, ⟨.smemlen, rfl, rfl⟩, by simp⟩

/-- An index of R26 is global (R25). -/
theorem csrIsGlobal_of_globalReg {csr : BitVec 8} {g : GlobalReg} (h : globalReg csr = some g) : csrIsGlobal csr = true := by
  have : ∀ c : BitVec 8, (globalReg c).isSome → csrIsGlobal c = true := by decide
  exact this csr (by rw [h]; rfl)

theorem csrIsGlobal_of_trackReg {csr : BitVec 8} {r : TrackReg} (h : trackReg csr = some r) : csrIsGlobal csr = false := by
  have : ∀ c : BitVec 8, (trackReg c).isSome → csrIsGlobal c = false := by decide
  exact this csr (by rw [h]; rfl)

/-! ## CSRR and CSRW with a defined index -/

theorem exec_csrr_global {csr : BitVec 8} {g : GlobalReg} (h : globalReg csr = some g) (s : State) (rd : Reg) :
    exec (.csrr rd 0 csr) s = .next (s.setX rd (g.read s)) := by
  simp [exec, execCsrr, csrTrackOk, csrIsGlobal_of_globalReg h, h]

theorem exec_csrr_track {csr : BitVec 8} {r : TrackReg} (h : trackReg csr = some r) (s : State) (k : Fin Config.NTRK) (rd : Reg) :
    exec (.csrr rd (trackField k) csr) s = .next (s.setX rd (r.read (s.track k))) := by
  simp [exec, execCsrr, csrTrackOk, csrIsGlobal_of_trackReg h, h]

theorem exec_csrw_track {csr : BitVec 8} {r : TrackReg} (h : trackReg csr = some r) (s : State) (k : Fin Config.NTRK) (rs : Reg)
    {tr : Track} {hit : Bool} (hw : r.write (s.getX rs) (s.track k) = some (tr, hit)) :
    exec (.csrw (trackField k) csr rs) s = .next ((s.setTrack k tr).flagIf hit .clamp) := by
  simp [exec, execCsrw, csrTrackOk, csrIsGlobal_of_trackReg h, h, hw]

end Sys2Proof.Laws
end

section
/-! PROOF. CSRR reads every register (O19). -/

namespace Sys2Proof.Proofs

open Sys2Proof Sys2Proof.Machine Sys2Proof.Laws

/-- Settles O19: each entry of the two lists is a register's index with what it reads as, and CSRR writes that to X[rd]. -/
theorem csrrReadsEveryRegister : Obligations.CsrrReadsEveryRegister := by
  refine fun s rd => ⟨fun p hp => ?_, fun k p hp => ?_⟩
  · obtain ⟨g, hg, hread⟩ := globalReg_of_mem hp
    exact ⟨_, exec_csrr_global hg s rd, by rw [getX_setX_same, hread], onlyX_setX s rd _⟩
  · obtain ⟨r, hr, hread⟩ := mem_trackRegisters.1 hp
    exact ⟨_, exec_csrr_track hr s k rd, by rw [getX_setX_same, hread], onlyX_setX s rd _⟩

end Sys2Proof.Proofs
end

section
/-! SUPPORT. The write transform of CSRW (R25, R124): the register it writes, the flag, and the registers it leaves alone. -/

namespace Sys2Proof.Laws

open Sys2Proof Sys2Proof.Machine

/-- A register a program can write has one index only (R28). -/
theorem trackReg_inj_of_writable {c d : BitVec 8} {r : TrackReg} (hd : csrWritable d = true)
    (hr : trackReg d = some r) (hc : trackReg c = some r) : c = d := by
  have : ∀ d : BitVec 8, csrWritable d = true → (trackReg d).isSome = true → ∀ c, trackReg c = trackReg d → c = d := by decide
  exact this d hd (by rw [hr]; rfl) c (hc.trans hr.symm)

/-- A write changes no register but its own, and SPS with BPM (R33). -/
theorem read_of_write_ne {r q : TrackReg} {v : Word} {tr tr' : Track} {hit : Bool} (h : r.write v tr = some (tr', hit))
    (hq : q ≠ r) (hsps : q = .sps → r ≠ .bpm) : q.read tr' = q.read tr := by
  cases r <;> cases h <;> cases q <;> first | rfl | exact absurd rfl hq | exact absurd rfl (hsps rfl)

/-- The write is flagged exactly when the stored value is not the written one (R10, R264). -/
theorem errClamped_eq (s : State) (k : Fin Config.NTRK) (tr : Track) (hit : Bool) :
    ((s.setTrack k tr).flagIf hit .clamp).err = errClamped s hit := by
  rw [flagIf_err, setTrack_err]
  rfl

theorem keeps_setTrack_flagIf (s : State) (k : Fin Config.NTRK) (tr : Track) (hit : Bool) (c : Condition) :
    Keeps s ((s.setTrack k tr).flagIf hit c) [] [k] [] where
  regs r _ := by rw [flagIf_getX, setTrack_getX]
  tracks j hj := by rw [flagIf_track, track_setTrack_ne _ _ (by simpa using hj)]
  bytes a _ := by rw [flagIf_mem, setTrack_mem]
  rest := by cases hit <;> rfl

/-- CSRW to a register of the track other than BPM: it stores the value, flags the clamp, and leaves every other register of the
list of R28 and the rest of the state. -/
theorem exec_csrw_stores {c : BitVec 8} {r : TrackReg} (hc : trackReg c = some r) (hw : csrWritable c = true) (hbpm : r ≠ .bpm)
    (s : State) (k : Fin Config.NTRK) (rs : Reg) {tr : Track} {hit : Bool}
    (h : r.write (s.getX rs) (s.track k) = some (tr, hit)) :
    ∃ u, exec (.csrw (trackField k) c rs) s = .next u ∧ (c, r.read tr) ∈ trackRegisters (u.track k) ∧
      (∀ q ∈ trackRegisters (s.track k), q.1 ≠ c → q ∈ trackRegisters (u.track k)) ∧
      u.err = errClamped s hit ∧ Keeps s u [] [k] [] := by
  refine ⟨_, exec_csrw_track hc s k rs h, ?_, fun q hq hne => ?_, errClamped_eq s k tr hit, keeps_setTrack_flagIf s k tr hit _⟩
  · rw [flagIf_track, track_setTrack_same]
    exact mem_trackRegisters.2 ⟨r, hc, rfl⟩
  · obtain ⟨r', hr', hread⟩ := mem_trackRegisters.1 hq
    have hr : r' ≠ r := fun e => hne (trackReg_inj_of_writable hw hc (e ▸ hr'))
    rw [flagIf_track, track_setTrack_same]
    exact mem_trackRegisters.2 ⟨r', hr', by rw [read_of_write_ne h hr fun _ => hbpm, hread]⟩

/-- A level register stores `clampf` of the written value (R29, R30, R32, R38). -/
theorem level_write {p : BitVec 8 × F32} (h : p ∈ levelRegisters) : csrWritable p.1 = true ∧ ∃ r, trackReg p.1 = some r ∧ r ≠ .bpm ∧
    ∀ v tr, ∃ tr', r.write v tr = some (tr', clampfHit v p.2 fOne) ∧ r.read tr' = clampf v p.2 fOne := by
  revert p
  simp only [levelRegisters, List.forall_mem_cons]
  refine ⟨⟨rfl, .vol, rfl, ?_⟩, ⟨rfl, .pan, rfl, ?_⟩, ⟨rfl, .dsend, rfl, ?_⟩, ⟨rfl, .rsend, rfl, ?_⟩, ⟨rfl, .seqvol, rfl, ?_⟩,
    ⟨rfl, .dlvl, rfl, ?_⟩, ⟨rfl, .dfb, rfl, ?_⟩, ⟨rfl, .dspr, rfl, ?_⟩, by simp⟩ <;>
    exact ⟨by decide, fun v tr => ⟨_, rfl, rfl⟩⟩

theorem clampu_le (v : Word) {lo hi : Nat} (h : lo ≤ hi) : clampu v lo hi ≤ hi := by
  rw [clampu_eq_min_max v h]
  exact Nat.min_le_right _ _

theorem clampuHit_eq (v : Word) {lo hi : Nat} (h : lo ≤ hi) :
    clampuHit v lo hi = (decide (v.toNat < lo) || decide (hi < v.toNat)) := by
  rw [Bool.eq_iff_iff, clampuHit_iff v h]
  simp

/-- SPS holds the quotient of R33 for every tempo. -/
theorem toNat_spsOf (n : Nat) : (spsOf n).toNat = 661500 / n := by
  have := Nat.div_le_self 661500 n
  exact Nat.mod_eq_of_lt (show 661500 / n < 2 ^ 32 by omega)

/-- BPM holds the clamped tempo. -/
theorem toNat_bpm_of_clampu (v : Word) : (BitVec.ofNat 16 (clampu v 1 65535)).toNat = clampu v 1 65535 := by
  have : clampu v 1 65535 ≤ 65535 := clampu_le v (by decide)
  exact Nat.mod_eq_of_lt (by omega)

/-- CSRW to BPM: the clamped tempo with its SPS, and nothing else (R33). -/
theorem exec_csrw_bpm (s : State) (k : Fin Config.NTRK) (rs : Reg) : exec (.csrw (trackField k) 0x09 rs) s =
    .next ((s.setTrack k { s.track k with bpm := BitVec.ofNat 16 (clampu (s.getX rs) 1 65535),
                                          sps := spsOf (clampu (s.getX rs) 1 65535) }).flagIf
      (clampuHit (s.getX rs) 1 65535) .clamp) :=
  exec_csrw_track (r := .bpm) rfl s k rs rfl

/-- An integer register stores the written value clamped to its range (R31, R32). -/
theorem count_write {p : BitVec 8 × Nat × Nat} (h : p ∈ countRegisters) : csrWritable p.1 = true ∧ p.2.1 ≤ p.2.2 ∧
    ∃ r, trackReg p.1 = some r ∧ r ≠ .bpm ∧ ∀ v tr, ∃ tr', r.write v tr = some (tr', clampuHit v p.2.1 p.2.2) ∧
      r.read tr' = BitVec.ofNat 32 (clampu v p.2.1 p.2.2) := by
  revert p
  simp only [countRegisters, List.forall_mem_cons]
  refine ⟨⟨rfl, by decide, .kind, rfl, by decide, fun v tr => ⟨_, rfl, ?_⟩⟩,
    ⟨rfl, by decide, .root, rfl, by decide, fun v tr => ⟨_, rfl, ?_⟩⟩,
    ⟨rfl, by decide, .glide, rfl, by decide, fun v tr => ⟨_, rfl, ?_⟩⟩, by simp⟩
  · have hle : clampu v 0 1 ≤ 1 := clampu_le v (by decide)
    rcases (by omega : clampu v 0 1 = 0 ∨ clampu v 0 1 = 1) with h0 | h1
    · simp [TrackReg.read, VoiceKind.toWord, h0]
    · simp [TrackReg.read, VoiceKind.toWord, h1]
  · have hle : clampu v 0 127 ≤ 127 := clampu_le v (by decide)
    exact BitVec.setWidth_ofNat_of_le_of_lt (by decide) (by omega)
  · have hle : clampu v 1 65535 ≤ 65535 := clampu_le v (by decide)
    exact BitVec.setWidth_ofNat_of_le_of_lt (by decide) (by omega)

end Sys2Proof.Laws
end

section
/-! PROOF. CSRW to the levels (O20) and to the counts (O21). -/

namespace Sys2Proof.Proofs

open Sys2Proof Sys2Proof.Machine Sys2Proof.Laws

/-- Settles O20: each level register's write transform is `clampf`. -/
theorem csrwClampsLevels : Obligations.CsrwClampsLevels := by
  intro s k rs p hp
  obtain ⟨hw, r, hr, hbpm, hwrite⟩ := level_write hp
  obtain ⟨tr', htr', hread⟩ := hwrite (s.getX rs) (s.track k)
  have hstores := exec_csrw_stores hr hw hbpm s k rs htr'
  rw [hread, clampfHit] at hstores
  exact hstores

/-- Settles O21: each integer register's write transform is `clampu`; BPM's writes SPS beside it. -/
theorem csrwClampsCounts : Obligations.CsrwClampsCounts := by
  refine fun s k rs => ⟨fun p hp => ?_, ?_⟩
  · obtain ⟨hw, hle, r, hr, hbpm, hwrite⟩ := count_write hp
    obtain ⟨tr', htr', hread⟩ := hwrite (s.getX rs) (s.track k)
    have hstores := exec_csrw_stores hr hw hbpm s k rs htr'
    rwa [hread, clampu_eq_min_max _ hle, clampuHit_eq _ hle] at hstores
  · refine ⟨_, exec_csrw_bpm s k rs, ?_⟩
    rw [errClamped_eq, flagIf_track, track_setTrack_same, toNat_bpm_of_clampu, toNat_spsOf, clampu_eq_min_max _ (by decide),
      clampuHit_eq _ (by decide)]
    exact ⟨rfl, rfl, rfl, rfl, keeps_setTrack_flagIf ..⟩

end Sys2Proof.Proofs
end

section
/-! PROOF. The reset state satisfies the invariants (O59). -/

namespace Sys2Proof.Laws

open Sys2Proof Sys2Proof.Machine

@[simp] theorem reset_track (k : Fin Config.NTRK) : State.reset.track k = Track.reset := by simp [State.track, State.reset]

theorem reset_configLegal : Track.reset.ConfigLegal := by decide

theorem reset_oscLegal : Track.reset.OscLegal := by decide

theorem reset_samplerLegal : Track.reset.SamplerLegal := by decide

theorem reset_delayLegal : Track.reset.DelayLegal := by decide

theorem reset_reverbLegal : Track.reset.ReverbLegal := by decide

theorem reset_filterLegal : Track.reset.FilterLegal := by decide

end Sys2Proof.Laws

namespace Sys2Proof.Proofs

open Sys2Proof Sys2Proof.Machine Sys2Proof.Laws

/-- Settles O59: the reset memory lists nothing, and every track's registers are those of `Track.reset`. -/
theorem resetSatisfiesInvariants : Obligations.ResetSatisfiesInvariants := by
  refine ⟨by decide, ⟨.nil, List.forall_mem_nil _⟩, by simp [State.ElementsOnly, State.reset], fun k => ?_⟩
  rw [reset_track]
  exact ⟨reset_configLegal, reset_oscLegal, reset_samplerLegal, reset_delayLegal, reset_reverbLegal, reset_filterLegal⟩

end Sys2Proof.Proofs
end

section
/-! SUPPORT. The agent's turn (R237, R238): when it moves, what a slot leaves alone, and where the position goes. -/

namespace Sys2Proof.Laws

open Sys2Proof Sys2Proof.Machine Relation

/-! ## The registers no unit changes -/

/-- A track with everything put back that a unit changes: the registers INIT clears (R294). -/
def initialTrack (tr : Track) : Track := { initRegs tr with apidx := Vector.replicate Config.NSTAGE 0, rbus := 0 }

/-- A tick of a high-pass unit changes its history only. -/
theorem map_clearHistory_setHpf (tr : Track) (v : Fin Config.NHPF) (x y : F32) :
    (tr.setHpf v { tr.hpf[v.val] with x1 := x, y1 := y }).hpf.map clearHistory = tr.hpf.map clearHistory := by
  ext i hi : 1
  rcases eq_or_ne v.val i with rfl | hne
  · simp [Track.setHpf, clearHistory]
  · simp [Track.setHpf, Vector.getElem_set_ne, hne]

theorem initialTrack_of_unitChange {tr tr' : Track} (h : UnitChange tr tr') : initialTrack tr' = initialTrack tr := by
  cases h with
  | highPass v x y =>
    unfold initialTrack initRegs
    rw [map_clearHistory_setHpf]
    rfl
  | _ => rfl

theorem initialTrack_of_unitChanges {tr tr' : Track} (h : ReflTransGen UnitChange tr tr') : initialTrack tr' = initialTrack tr := by
  induction h with
  | refl => rfl
  | tail _ hstep ih => rw [initialTrack_of_unitChange hstep, ih]

/-- The registers that only the host writes: the configuration, the sampler's buffer, the delay's settings and the high-pass
cutoffs (R241). -/
def hostRegister (r : TrackReg) : Bool :=
  match r with
  | .vol | .pan | .kind | .root | .dsend | .rsend | .glide | .seqvol | .bpm | .sps | .sbase | .slen | .dlvl | .dfb | .dspr | .dlag
  | .hcut _ | .hcoef _ => true
  | _ => false

theorem hostRegister_of_trackReg {c : BitVec 8} {r : TrackReg} (hr : trackReg c = some r)
    (hc : c.toNat ≤ 0x0A ∨ c = 0x1C ∨ c = 0x1D ∨ (0x20 ≤ c.toNat ∧ c.toNat ≤ 0x23) ∨ (0x28 ≤ c.toNat ∧ c.toNat ≤ 0x2E)) :
    hostRegister r = true := by
  have : ∀ c : BitVec 8,
      (c.toNat ≤ 0x0A ∨ c = 0x1C ∨ c = 0x1D ∨ (0x20 ≤ c.toNat ∧ c.toNat ≤ 0x23) ∨ (0x28 ≤ c.toNat ∧ c.toNat ≤ 0x2E)) →
        (trackReg c).all hostRegister = true := by decide
  simpa [hr] using this c hc

theorem read_initialTrack {r : TrackReg} (h : hostRegister r = true) (tr : Track) : r.read (initialTrack tr) = r.read tr := by
  cases r with
  | hcut v => simp [TrackReg.read, initialTrack, initRegs, clearHistory]
  | hcoef v => simp [TrackReg.read, initialTrack, initRegs, clearHistory]
  | vol | pan | kind | root | dsend | rsend | glide | seqvol | bpm | sps | sbase | slen | dlvl | dfb | dspr | dlag => rfl
  | _ => cases h

/-- No unit changes a register of the host. -/
theorem RenderFrame.hostRegisters {s u : State} (h : RenderFrame s u) (k : Fin Config.NTRK) {p : BitVec 8 × Word}
    (hp : p ∈ trackRegisters (s.track k)) (hc : p.1.toNat ≤ 0x0A ∨ p.1 = 0x1C ∨ p.1 = 0x1D ∨
      (0x20 ≤ p.1.toNat ∧ p.1.toNat ≤ 0x23) ∨ (0x28 ≤ p.1.toNat ∧ p.1.toNat ≤ 0x2E)) : p ∈ trackRegisters (u.track k) := by
  obtain ⟨r, hr, hread⟩ := mem_trackRegisters.1 hp
  have hhost := hostRegister_of_trackReg hr hc
  refine mem_trackRegisters.2 ⟨r, hr, ?_⟩
  rw [← hread, ← read_initialTrack hhost, initialTrack_of_unitChanges (h.tracks k), read_initialTrack hhost]

/-! ## The spaces below DL -/

theorem elementOf_lt {sp : Space} {a : Nat} (h : ElementOf sp a) : a < 2 ^ 32 := by
  cases sp with
  | wt => obtain ⟨n, i, hn, hi, rfl⟩ := h; omega
  | ft | sm => exact lt_trans h (by norm_num)
  | pn | pp | pa | ps => obtain ⟨t, i, ht, hi, rfl⟩ := h; omega
  | dl | dr => obtain ⟨t, i, ht, hi, rfl⟩ := h; omega
  | ap =>
    obtain ⟨t, v, i, ht, hi, rfl⟩ := h
    have hv : v.val < 8 := v.isLt
    have := revlen_le v
    omega
  | pb => obtain ⟨b, f, hb, hf, rfl⟩ := h; omega

/-- Reading an element depends on its own bytes only. -/
theorem memRead_congr {s u : State} {sp : Space} {a : Nat}
    (h : ∀ j < sp.width, u.mem.byte (sp.cell a + j) = s.mem.byte (sp.cell a + j)) : u.memRead sp a = s.memRead sp a := by
  have hbyte : u.mem.byte (sp.cell a) = s.mem.byte (sp.cell a) := by simpa using h 0 (width_pos sp)
  have hword : sp.width = 4 → u.wordAt sp a = s.wordAt sp a := by
    intro hw
    rw [hw] at h
    simp only [State.wordAt, Memory.word, hbyte, h 1 (by decide), h 2 (by decide), h 3 (by decide)]
  cases sp with
  | pn | pp | pa | ps => simp only [State.memRead, State.byteAt, hbyte]
  | wt | ft | sm | dl | dr | ap | pb => exact hword rfl

/-- The bytes of an element lie before the next space. -/
theorem cell_lt {sp sp' : Space} {a j : Nat} (ha : ElementOf sp a) (hj : j < sp.width) (h : sp.index < sp'.index) :
    sp.cell a + j < sp'.base := by
  have hlt := elementOf_lt ha
  have hw := width_le sp
  have hbound : sp.width * a + j < 2 ^ 34 := by nlinarith
  calc sp.cell a + j < (sp.index + 1) * 2 ^ 34 := by unfold Space.cell Space.base; omega
    _ ≤ sp'.base := Nat.mul_le_mul_right _ h

theorem index_lt_dl {sp : Space} (hdl : sp ≠ .dl) (hdr : sp ≠ .dr) (hap : sp ≠ .ap) (hpb : sp ≠ .pb) :
    sp.index < Space.index .dl := by
  cases sp with
  | wt | ft | sm | pn | pp | pa | ps => decide
  | dl | dr | ap | pb => contradiction

/-- The agent writes no element of WT, FT, SM and the pattern spaces. -/
theorem RenderFrame.memRead {s u : State} (h : RenderFrame s u) {sp : Space} {a : Nat} (ha : ElementOf sp a)
    (hsp : sp.index < Space.index .dl) : u.memRead sp a = s.memRead sp a :=
  memRead_congr fun _ hj => h.bytes _ (cell_lt ha hj hsp)

/-! ## MIX.EMIT -/

theorem storeFrame_renderFrame (s : State) : RenderFrame s (storeFrame s) :=
  (UnitFrame.setWordAt s (by decide) _ _).toRenderFrame.trans (.of_eq rfl rfl rfl rfl rfl)

theorem offerDevice_renderFrame (s : State) : RenderFrame s (offerDevice s) := by
  obtain ⟨hx, -, hinfo, -, -, -, -, htracks, hmem, -⟩ := offerDevice_frame s
  obtain ⟨-, herr, -⟩ := offerDevice_effect s
  refine .of_eq hx hinfo ?_ hmem htracks
  rw [herr, BitVec.and_or_distrib_right]
  split <;> exact BitVec.or_zero

theorem offerCapture_renderFrame (s : State) : RenderFrame s (offerCapture s) := by
  obtain ⟨hx, -, hinfo, -, -, -, -, htracks, hmem, -⟩ := offerCapture_frame s
  obtain ⟨-, herr, -⟩ := offerCapture_effect s
  refine .of_eq hx hinfo ?_ hmem htracks
  rw [herr, BitVec.and_or_distrib_right]
  split <;> exact BitVec.or_zero

theorem handoff_renderFrame (b : Fin Config.NBUF) (s : State) : RenderFrame s (handoff b s) :=
  ((offerDevice_renderFrame s).trans (offerCapture_renderFrame _)).trans (.of_eq rfl rfl rfl rfl rfl)

theorem mixEmit_renderFrame (s : State) : RenderFrame s (mixEmit s) := by
  unfold mixEmit
  split
  · exact (storeFrame_renderFrame s).trans (.of_eq rfl rfl rfl rfl rfl)
  · exact (storeFrame_renderFrame s).trans (handoff_renderFrame _ _)

/-- The frame after this one, or the start of the next buffer (R229, R239). -/
theorem mixEmit_rpos (s : State) : (mixEmit s).rpos =
    if s.rpos.pframe.val < 1023 then { s.rpos with pframe := s.rpos.pframe + 1 }
    else { s.rpos with pbuf := s.rpos.pbuf + 1, pframe := 0 } := by
  have hbuf : ∀ b : Fin Config.NBUF, nextBuffer b = b + 1 := by decide
  unfold mixEmit
  split
  · case isTrue h =>
    have hlt : s.rpos.pframe.val < 1023 := Nat.lt_of_succ_lt_succ h
    have hnext : (⟨s.rpos.pframe.val + 1, h⟩ : Fin Config.BUFLEN) = s.rpos.pframe + 1 :=
      Fin.ext (Nat.mod_eq_of_lt h).symm
    rw [if_pos hlt, hnext]
  · case isFalse h =>
    rw [if_neg fun hlt => h (Nat.succ_lt_succ hlt), ← hbuf]
    rfl

/-! ## The slot and the turn -/

/-- All a slot that answers can do: a unit operation and the next slot, or MIX.EMIT at slot 0 (R236, R238). -/
theorem slotStep_ok {s u : State} (h : slotStep s = .ok u) :
    (s.rpos.slot.val < 8 ∧ ∃ v, UnitFrame s v ∧ u = v.setSlot (s.rpos.slot + 1)) ∨
      (8 ≤ s.rpos.slot.val ∧ u = mixEmit (s.setSlot 0)) := by
  have hnext : ∀ q : Fin Config.NSLOT, ∀ h, nextSlot q h = q + 1 := by decide
  unfold slotStep at h
  split at h
  · case isTrue hq =>
    cases h
    exact .inl ⟨hq.trans (by decide), _, seqTick_unitFrame _ s, by rw [hnext]⟩
  · split at h
    · case isTrue hq =>
      split at h
      · cases h
        exact .inl ⟨hq, _, mixTrk_unitFrame ‹_›, by rw [hnext]⟩
      · cases h
    · case isFalse hq =>
      cases h
      exact .inr ⟨Nat.le_of_not_lt hq, rfl⟩

theorem slotStep_renderFrame {s u : State} (h : slotStep s = .ok u) : RenderFrame s u := by
  obtain ⟨-, v, hv, rfl⟩ | ⟨-, rfl⟩ := slotStep_ok h
  · exact hv.toRenderFrame.trans (.of_eq rfl rfl rfl rfl rfl)
  · exact RenderFrame.trans (u := s.setSlot 0) (.of_eq rfl rfl rfl rfl rfl) (mixEmit_renderFrame _)

theorem slotStep_rpos {s u : State} (h : slotStep s = .ok u) : u.rpos =
    if s.rpos.slot.val < 8 then { s.rpos with slot := s.rpos.slot + 1 }
    else if s.rpos.pframe.val < 1023 then { s.rpos with slot := 0, pframe := s.rpos.pframe + 1 }
    else ⟨s.rpos.pbuf + 1, 0, 0⟩ := by
  obtain ⟨hlt, v, hv, rfl⟩ | ⟨hge, rfl⟩ := slotStep_ok h
  · rw [if_pos hlt, setSlot_rpos, hv.rpos]
  · rw [if_neg (Nat.not_lt.2 hge), mixEmit_rpos]
    rfl

/-- The agent has no slot to run: it is not enabled, or the step is the dispose step (R237). -/
def NoSlot (s : State) : Prop :=
  s.status.active = false ∨ (s.rpos.pframe = 0 ∧ s.rpos.slot = 0 ∧ (s.status.running = false ∨ s.status.paused = true))

theorem noSlot_iff (s : State) : NoSlot s ↔ (s.agentEnabled && !s.disposing) = false := by
  have hboundary : s.atBoundary = true ↔ s.rpos.pframe = 0 ∧ s.rpos.slot = 0 := by simp [State.atBoundary]
  unfold NoSlot State.agentEnabled State.disposing
  rw [← and_assoc, ← hboundary]
  cases s.status.active <;> cases s.atBoundary <;> cases s.status.running <;> cases s.status.paused <;> decide

/-- All the agent's turn can do: wait or dispose, or run its slot (R237). -/
theorem agentTurn_next {s u : State} (h : agentTurn s = .next u) :
    (NoSlot s ∧ (u = s ∨ u = disposeStep s)) ∨ (¬NoSlot s ∧ slotStep s = .ok u) := by
  rw [noSlot_iff]
  unfold agentTurn at h
  cases henabled : s.agentEnabled
  case false =>
    rw [henabled] at h
    cases h
    exact .inl ⟨rfl, .inl rfl⟩
  cases hdisposing : s.disposing
  case true =>
    rw [henabled, hdisposing] at h
    cases h
    exact .inl ⟨rfl, .inr rfl⟩
  rw [henabled, hdisposing] at h
  refine .inr ⟨by decide, ?_⟩
  cases hslot : slotStep s with
  | ok v => rw [hslot] at h; cases h; rfl
  | error e => rw [hslot] at h; cases h

theorem disposeStep_renderFrame (s : State) : RenderFrame s (disposeStep s) := .of_eq rfl rfl rfl rfl rfl

theorem agentTurn_renderFrame {s u : State} (h : agentTurn s = .next u) : RenderFrame s u := by
  obtain ⟨-, rfl | rfl⟩ | ⟨-, hslot⟩ := agentTurn_next h
  · exact (UnitFrame.refl u).toRenderFrame
  · exact disposeStep_renderFrame s
  · exact slotStep_renderFrame hslot

end Sys2Proof.Laws
end

section
/-! PROOF. The agent stays in its part (O9). -/

namespace Sys2Proof.Proofs

open Sys2Proof Sys2Proof.Machine Sys2Proof.Laws

/-- Settles O9: every unit operation keeps the render frame, and so does a turn made of them; the position follows from which of
its steps the turn takes. -/
theorem agentStaysInItsPart : Obligations.AgentStaysInItsPart := by
  intro s u h
  have hframe := agentTurn_renderFrame h
  refine ⟨hframe.x, hframe.errinfo, hframe.rejections, fun k p hp hc => hframe.hostRegisters k hp hc,
    fun sp a hdl hdr hap hpb ha => hframe.memRead ha (index_lt_dl hdl hdr hap hpb), ?_⟩
  obtain ⟨hno, rfl | rfl⟩ | ⟨hslot, hok⟩ := agentTurn_next h
  · exact (if_pos hno).symm
  · exact (if_pos hno).symm
  · rw [slotStep_rpos hok]
    exact (if_neg hslot).symm

end Sys2Proof.Proofs
end

section
/-! SUPPORT. What a step can do to a track: the units' changes, the host's settings, INIT and reset. An invariant of the tracks is
kept by every step when it is kept by each of these. -/

namespace Sys2Proof.Laws

open Sys2Proof Sys2Proof.Machine Relation

/-- One change a step makes to a track. -/
inductive TrackChange : Track → Track → Prop
  /-- A unit operation, the host's or the agent's. -/
  | unit {tr tr' : Track} (h : UnitChange tr tr') : TrackChange tr tr'
  /-- CSRW (R124). -/
  | write {tr tr' : Track} (r : TrackReg) (v : Word) (hit : Bool) (h : r.write v tr = some (tr', hit)) : TrackChange tr tr'
  /-- SMP.SETS (R143). -/
  | buffer (tr : Track) (base len : Word) :
    TrackChange tr { tr with sbase := (fitBuffer base len).1, slen := (fitBuffer base len).2, spos := 0 }
  /-- HPF.SETC (R166). -/
  | cutoff (tr : Track) (v : Fin Config.NHPF) (f : F32) :
    TrackChange tr (tr.setHpf v { tr.hpf[v.val] with cut := clampf f 0 f22050, coef := highPassCoef (clampf f 0 f22050) })
  /-- DLY.SETT (R179). -/
  | retime (tr : Track) (time : Nat) :
    TrackChange tr { tr with dlag := BitVec.ofNat 32 (fitTime time), drate := (retime (currentLag tr) (fitTime time * 65536)).1,
                             dcnt := (retime (currentLag tr) (fitTime time * 65536)).2 }
  /-- REV.RST (R198). -/
  | muteReverb (tr : Track) : TrackChange tr { tr with apidx := Vector.replicate Config.NSTAGE 0, rbus := 0 }
  /-- INIT, the reverb apart (R294). -/
  | init (tr : Track) : TrackChange tr (initRegs tr)
  /-- The reset input (R290). -/
  | reset (tr : Track) : TrackChange tr Track.reset

/-- Every track has gone through changes a step can make. -/
def TracksChange (s u : State) : Prop := ∀ k, ReflTransGen TrackChange (s.track k) (u.track k)

namespace TracksChange

theorem of_eq {s u : State} (h : u.tracks = s.tracks) : TracksChange s u := fun k => by rw [track_eq_of_tracks h]

theorem trans {s u v : State} (h : TracksChange s u) (h' : TracksChange u v) : TracksChange s v := fun k => (h k).trans (h' k)

theorem of_frame {s u : State} (h : RenderFrame s u) : TracksChange s u := fun k => ReflTransGen.mono (fun _ _ => .unit) _ _ (h.tracks k)

theorem setTrack {s : State} {k : Fin Config.NTRK} {tr : Track} (h : TrackChange (s.track k) tr) :
    TracksChange s (s.setTrack k tr) := by
  intro j
  rw [track_setTrack]
  split
  · case isTrue hj => subst hj; exact .single h
  · exact .refl

theorem flagIf (s : State) (b : Bool) (c : Condition) : TracksChange s (s.flagIf b c) := of_eq (flagIf_tracks s b c)

/-- A property that each change keeps, the changes together keep. -/
theorem induct {P : Track → Prop} (hP : ∀ tr tr', TrackChange tr tr' → P tr → P tr') {s u : State} (h : TracksChange s u)
    {k : Fin Config.NTRK} (hk : P (s.track k)) : P (u.track k) := by
  have hchanges := h k
  generalize u.track k = tr at hchanges ⊢
  induction hchanges with
  | refl => exact hk
  | tail _ hstep ih => exact hP _ _ hstep ih

end TracksChange

/-! ## Outcomes -/

/-- Every next state the outcome answers satisfies P; a fault or a refusal answers none. -/
def Ensures (r : Result) (P : State → Prop) : Prop := ∀ u, r = .next u → P u

namespace Ensures

variable {P : State → Prop} {s : State} {i : Instr}

theorem next {u : State} (h : P u) : Ensures (.next u) P := by
  intro v hv
  cases hv
  exact h

theorem fault (e : Fault) : Ensures (.fault e) P := nofun

theorem reject (hraise : ∀ c w, P (s.raise c w)) (c : Condition) : Ensures (reject c i s) P := next (hraise c _)

theorem onTrack {t : BitVec 4} {run : Fin Config.NTRK → Result} (hraise : ∀ c w, P (s.raise c w))
    (h : ∀ k, Ensures (run k) P) : Ensures (onTrack i t s run) P := by
  unfold Machine.onTrack
  split
  · exact h _
  · exact reject hraise _

theorem onStage {v : BitVec 4} {run : Fin Config.NSTAGE → Result} (hraise : ∀ c w, P (s.raise c w))
    (h : ∀ k, Ensures (run k) P) : Ensures (onStage i v s run) P := by
  unfold Machine.onStage
  split
  · exact h _
  · exact reject hraise _

theorem onHighPass {v : BitVec 4} {run : Fin Config.NHPF → Result} (hraise : ∀ c w, P (s.raise c w))
    (h : ∀ k, Ensures (run k) P) : Ensures (onHighPass i v s run) P := by
  unfold Machine.onHighPass
  split
  · exact h _
  · exact reject hraise _

theorem onSpace {n : BitVec 4} {run : Space → Result} (hraise : ∀ c w, P (s.raise c w))
    (h : ∀ sp, Ensures (run sp) P) : Ensures (onSpace i n s run) P := by
  unfold Machine.onSpace
  split
  · exact h _
  · exact reject hraise _

theorem directOnly {run : Result} (hraise : ∀ c w, P (s.raise c w)) (h : Ensures run P) : Ensures (directOnly i s run) P := by
  unfold Machine.directOnly
  split
  · exact reject hraise _
  · exact h

theorem whenRunning {run : Result} (hraise : ∀ c w, P (s.raise c w)) (h : Ensures run P) : Ensures (whenRunning i s run) P := by
  unfold Machine.whenRunning
  split
  · exact h
  · exact reject hraise _

theorem ite {c : Prop} [Decidable c] {r r' : Result} (h : Ensures r P) (h' : Ensures r' P) : Ensures (if c then r else r') P := by
  split
  · exact h
  · exact h'

theorem resultToX {rd : Reg} {r : Except Fault (F32 × State)} (h : ∀ y u, r = .ok (y, u) → P (u.setX rd y)) :
    Ensures (resultToX rd r) P := by
  cases r with
  | ok p => exact next (h p.1 p.2 rfl)
  | error e => exact fault e

theorem resultOf {r : Except Fault State} (h : ∀ u, r = .ok u → P u) : Ensures (resultOf r) P := by
  cases r with
  | ok u => exact next (h u rfl)
  | error e => exact fault e

end Ensures

/-! ## Each command -/

theorem smpSets_tracksChange (k : Fin Config.NTRK) (base len : Word) (s : State) : TracksChange s (smpSets k base len s) :=
  (TracksChange.setTrack (.buffer _ base len)).trans (.flagIf _ _ _)

theorem hpfSetc_tracksChange (k : Fin Config.NTRK) (v : Fin Config.NHPF) (f : F32) (s : State) :
    TracksChange s (hpfSetc k v f s) :=
  (TracksChange.setTrack (.cutoff _ v f)).trans (.flagIf _ _ _)

theorem dlySett_tracksChange (k : Fin Config.NTRK) (time : Word) (s : State) : TracksChange s (dlySett k time s) :=
  (TracksChange.setTrack (.retime _ time.toNat)).trans (.flagIf _ _ _)

theorem muteStages_tracks (k : Fin Config.NTRK) (s : State) : (muteStages k s).tracks = s.tracks := by
  obtain ⟨-, -, -, -, -, -, -, -, -, htracks, -, -⟩ := muteStages_frame s k
  exact htracks

theorem revRst_tracksChange (k : Fin Config.NTRK) (s : State) : TracksChange s (revRst k s) := by
  have hmute := muteStages_tracks k s
  refine (TracksChange.of_eq hmute).trans (.setTrack ?_)
  rw [track_eq_of_tracks hmute]
  exact .muteReverb _

theorem initTrack_tracksChange (s : State) (k : Fin Config.NTRK) : TracksChange s (initTrack s k) := by
  unfold initTrack
  refine TracksChange.trans ?_ (revRst_tracksChange k _)
  refine (TracksChange.setTrack (.init (s.track k))).trans (.of_eq ?_)
  rw [zeroWords_tracks, zeroWords_tracks]

theorem initTracks_tracksChange (ks : List (Fin Config.NTRK)) (s : State) : TracksChange s (ks.foldl initTrack s) := by
  induction ks generalizing s with
  | nil => exact .of_eq rfl
  | cons k ks ih =>
    rw [List.foldl_cons]
    exact (initTrack_tracksChange s k).trans (ih _)

theorem beginRun_tracks (s : State) : (beginRun s).tracks = (allTracks.foldl initTrack s).tracks := by
  unfold beginRun initEngine
  rfl

theorem beginRun_tracksChange (s : State) : TracksChange s (beginRun s) :=
  (initTracks_tracksChange allTracks s).trans (.of_eq (beginRun_tracks s))

theorem abortStart_tracks (d c : Bool) (s : State) : (abortStart d c s).tracks = s.tracks := by
  obtain ⟨-, -, -, -, -, -, -, htracks, -⟩ := abortStart_frame s d c
  exact htracks

theorem postIncrement_tracks (post : Bool) (ra : Reg) (a : Word) (s : State) : (postIncrement post ra a s).tracks = s.tracks := by
  cases post <;> rfl

theorem memWrite_tracks (sp : Space) (a : Nat) (v : Word) (s : State) : (s.memWrite sp a v).tracks = s.tracks := by
  cases sp with
  | pn | pp | pa | ps => simp only [State.memWrite, setByteAt_tracks]
  | wt | ft | sm | dl | dr | ap | pb => simp only [State.memWrite, setWordAt_tracks]

theorem globalWrite_tracks {g : GlobalReg} {v : Word} {s u : State} (h : g.write v s = some u) : u.tracks = s.tracks := by
  cases g <;> cases h
  exact ackErr_tracks s v

theorem execCsrr_tracksChange (rd : Reg) (t : BitVec 4) (csr : BitVec 8) (s : State) :
    Ensures (execCsrr rd t csr s) (TracksChange s) := by
  have hraise : ∀ c w, TracksChange s (s.raise c w) := fun c w => .of_eq rfl
  unfold execCsrr
  refine .ite (.reject hraise _) (.ite ?_ ?_)
  · cases globalReg csr with
    | some g => exact .next (.of_eq rfl)
    | none => exact .reject hraise _
  · cases trackReg csr with
    | some r => exact .onTrack hraise fun k => .next (.of_eq rfl)
    | none => exact .reject hraise _

theorem execCsrw_tracksChange (t : BitVec 4) (csr : BitVec 8) (rs : Reg) (s : State) :
    Ensures (execCsrw t csr rs s) (TracksChange s) := by
  have hraise : ∀ c w, TracksChange s (s.raise c w) := fun c w => .of_eq rfl
  unfold execCsrw
  refine .ite (.reject hraise _) (.ite ?_ ?_)
  · cases globalReg csr with
    | none => exact .reject hraise _
    | some g =>
      dsimp only
      split
      · exact .next (.of_eq (globalWrite_tracks ‹_›))
      · exact .reject hraise _
  · cases trackReg csr with
    | none => exact .reject hraise _
    | some r =>
      refine .onTrack hraise fun k => ?_
      split
      · exact .next ((TracksChange.setTrack (.write r _ _ ‹_›)).trans (.flagIf _ _ _))
      · exact .reject hraise _

theorem exec_tracksChange (i : Instr) (s : State) : Ensures (exec i s) (TracksChange s) := by
  have hraise : ∀ c w, TracksChange s (s.raise c w) := fun c w => .of_eq rfl
  have hunit : ∀ {u : State}, UnitFrame s u → TracksChange s u := fun h => .of_frame h.toRenderFrame
  have hsetX : ∀ {u : State} {rd : Reg} {y : Word}, UnitFrame s u → TracksChange s (u.setX rd y) :=
    fun h => (hunit h).trans (.of_eq rfl)
  cases i <;> unfold exec
  case nop => exact .next (.of_eq rfl)
  case lil rd imm => exact .next (.of_eq rfl)
  case lih rd imm => exact .next (.of_eq rfl)
  case csrr rd t csr => exact execCsrr_tracksChange rd t csr s
  case csrw t csr rs => exact execCsrw_tracksChange t csr rs s
  case ldm rd n ra post =>
    exact .onSpace hraise fun sp => .ite (.next (.of_eq (postIncrement_tracks post ra _ s))) (.reject hraise _)
  case stm n ra post rv =>
    exact .onSpace hraise fun sp => .ite (.reject hraise _) <| .ite (.reject hraise _) <|
      .ite (.next (.of_eq ((postIncrement_tracks post ra _ _).trans (memWrite_tracks sp _ _ s)))) (.reject hraise _)
  case cvtS16 rd rs => exact .next (.of_eq rfl)
  case engStart =>
    refine .ite (.reject hraise _) (.ite (.next ?_) (.next ?_))
    · exact (TracksChange.of_eq (by rw [afterDraw_tracks, afterDraw_tracks])).trans (beginRun_tracksChange _)
    · exact .of_eq (by rw [abortStart_tracks, afterDraw_tracks, afterDraw_tracks])
  case engStop => exact .whenRunning hraise (.next (.of_eq rfl))
  case engPause => exact .whenRunning hraise (.next (.of_eq rfl))
  case engResume => exact .whenRunning hraise (.next (.of_eq rfl))
  case oscSetf t rs => exact .onTrack hraise fun k => .directOnly hraise (.next (hunit (oscSetf_unitFrame k _ s)))
  case oscTick rd t =>
    exact .onTrack hraise fun k => .directOnly hraise (.resultToX fun y u h => hsetX (oscTick_unitFrame h))
  case smpSets t rb rl => exact .onTrack hraise fun k => .next (smpSets_tracksChange k _ _ s)
  case smpTrig t => exact .onTrack hraise fun k => .directOnly hraise (.next (hunit (smpTrig_unitFrame k s)))
  case smpTick rd t =>
    exact .onTrack hraise fun k => .directOnly hraise (.resultToX fun y u h => hsetX (smpTick_unitFrame h))
  case wtSeal n =>
    obtain ⟨-, -, -, -, -, -, -, -, -, htracks, -⟩ := sealTable_frame s n
    exact .directOnly hraise (.next (.of_eq htracks))
  case apfProc rd t v rs =>
    exact .onTrack hraise fun k => .onStage hraise fun w => .directOnly hraise (.resultToX fun y u h => hsetX (apfProc_unitFrame h))
  case apfMute t v =>
    exact .onTrack hraise fun k => .onStage hraise fun w => .directOnly hraise (.next (.of_eq (zeroWords_tracks ..)))
  case hpfProc rd t v rs =>
    refine .onTrack hraise fun k => .onHighPass hraise fun w => .directOnly hraise (.resultToX fun y u h => ?_)
    cases h
    exact hsetX (hpfProc_unitFrame k w _ s)
  case hpfSetc t v rs => exact .onTrack hraise fun k => .onHighPass hraise fun w => .next (hpfSetc_tracksChange k w _ s)
  case dlyIn t rs => exact .onTrack hraise fun k => .directOnly hraise (.next (hunit (dlyIn_unitFrame k _ s)))
  case dlyOut rd t =>
    exact .onTrack hraise fun k => .directOnly hraise (.next ((hunit (dlyOut_unitFrame k s)).trans (.of_eq rfl)))
  case dlySett t rs => exact .onTrack hraise fun k => .next (dlySett_tracksChange k _ s)
  case revIn t rs => exact .onTrack hraise fun k => .directOnly hraise (.next (hunit (revIn_unitFrame k _ s)))
  case revProc rd t =>
    refine .onTrack hraise fun k => .directOnly hraise ?_
    split
    · case h_1 y u h => exact .next ((hunit (revProc_unitFrame h)).trans (.of_eq rfl))
    · exact .fault _
  case revRst t => exact .onTrack hraise fun k => .next (revRst_tracksChange k s)
  case seqTick t => exact .onTrack hraise fun k => .directOnly hraise (.next (hunit (seqTick_unitFrame k s)))
  case seqRnds t =>
    refine .onTrack hraise fun k => .next ?_
    obtain ⟨-, -, -, -, -, -, -, -, -, htracks, -⟩ := seqRnds_frame s k
    exact .of_eq htracks
  case seqRndr t =>
    refine .onTrack hraise fun k => .next ?_
    obtain ⟨-, -, -, -, -, -, -, -, -, htracks, -⟩ := seqRndr_frame s k
    exact .of_eq htracks
  case voxTrig t note accent slide =>
    exact .onTrack hraise fun k => .directOnly hraise (.next (hunit (voxTrig_unitFrame k note accent slide s)))
  case voxOff t => exact .onTrack hraise fun k => .directOnly hraise (.next (hunit (voxOff_unitFrame k s)))
  case voxTick rd t =>
    refine .onTrack hraise fun k => .directOnly hraise ?_
    split
    · case h_1 v u h => exact .next ((hunit (voxTick_unitFrame h)).trans (.of_eq rfl))
    · exact .fault _
  case mixTrk t => exact .onTrack hraise fun k => .directOnly hraise (.resultOf fun u h => hunit (mixTrk_unitFrame h))
  case mixPan rd t rs => exact .onTrack hraise fun k => .next (.of_eq rfl)
  case mixEmit => exact .directOnly hraise (.next (.of_frame (mixEmit_renderFrame s)))
  case mixCvt rd rs => exact .next (.of_eq rfl)

/-! ## The step -/

theorem commandTurn_tracksChange (w : Word) (s : State) : Ensures (commandTurn w s) (TracksChange s) := by
  unfold commandTurn
  split
  · exact exec_tracksChange _ s
  · exact .next (.of_eq rfl)

theorem resetTurn_tracksChange (s : State) : Ensures (resetTurn s) (TracksChange s) := by
  refine .next fun k => .single ?_
  rw [show State.track { State.reset with inputs := s.inputs } k = Track.reset from reset_track k]
  exact .reset _

/-- Whoever's turn it is, a step changes the tracks only as `TrackChange` lists. -/
theorem step_tracksChange {s u : State} (h : step s = .next u) : TracksChange s u := by
  have hdrop : TracksChange s s.dropTurn := .of_eq rfl
  unfold step at h
  split at h
  · exact .of_frame (agentTurn_renderFrame h)
  · exact hdrop.trans (commandTurn_tracksChange _ _ u h)
  · exact hdrop.trans (.of_frame (agentTurn_renderFrame h))
  · exact hdrop.trans (resetTurn_tracksChange _ u h)

end Sys2Proof.Laws
end

section
/-! SUPPORT. A rounding stays between two patterns its exact value lies between; with it the range of a high-pass coefficient
(rules R9 and R166). -/

namespace Sys2Proof.Laws

open Sys2Proof Sys2Proof.Machine

/-! ## A rounding is monotone -/

theorem le_valueOf_of_nearestEven {r c : F32} {q : ℚ} (h : NearestEven r q) (hc : IsFinite c) (hle : valueOf c ≤ q) :
    valueOf c ≤ valueOf r := by
  have hnear := (h.2 c hc).1
  rw [abs_of_nonpos (by linarith : valueOf c - q ≤ 0)] at hnear
  linarith [neg_abs_le (valueOf r - q)]

theorem valueOf_le_of_nearestEven {r c : F32} {q : ℚ} (h : NearestEven r q) (hc : IsFinite c) (hle : q ≤ valueOf c) :
    valueOf r ≤ valueOf c := by
  have hnear := (h.2 c hc).1
  rw [abs_of_nonneg (by linarith : 0 ≤ valueOf c - q)] at hnear
  linarith [le_abs_self (valueOf r - q)]

/-- No finite value reaches the bound of overflow. -/
theorem abs_valueOf_lt {a : F32} (h : IsFinite a) : |valueOf a| < 2 ^ 128 - 2 ^ 103 := by
  have hm : magnitude a ≤ 0x7F7FFFFF := Nat.le_of_lt_succ ((isFinite_iff a).1 h)
  rw [valueOf_eq_gridValue, abs_applySign, abs_of_nonneg (gridValue_nonneg _)]
  refine (gridValue_strictMono.monotone hm).trans_lt ?_
  rw [gridValue_largest]
  norm_num

/-- What is rounded between two patterns' values stays between them. -/
theorem RoundedOnce.between {r lo hi : F32} {t x y : ℚ} (h : RoundedOnce r t) (hlo : IsFinite lo) (hhi : IsFinite hi)
    (hx : valueOf lo = x) (hy : valueOf hi = y) (hle : x ≤ t) (hge : t ≤ y) :
    IsFinite r ∧ x ≤ valueOf r ∧ valueOf r ≤ y := by
  subst hx hy
  have hbound : |t| < 2 ^ 128 - 2 ^ 103 := by
    have hl := abs_lt.1 (abs_valueOf_lt hlo)
    have hh := abs_lt.1 (abs_valueOf_lt hhi)
    exact abs_lt.2 ⟨hl.1.trans_le hle, hge.trans_lt hh.2⟩
  have hnear := h.1 hbound
  exact ⟨hnear.1, le_valueOf_of_nearestEven hnear hlo hle, valueOf_le_of_nearestEven hnear hhi hge⟩

/-! ## The coefficient of a high-pass unit -/

theorem valueOf_zero : valueOf 0 = 0 := (valueOf_eq_zero_iff 0).2 (by decide)

theorem valueOf_twoPi : valueOf Config.TWO_PI = 13176795 / 2097152 := by
  simpa using valueOf_eq_of_fields (a := Config.TWO_PI) 13176795 2097152 (by decide) (by decide)

/-- The finite patterns of values in [x, y]. -/
def InRange (x : ℚ) (a : F32) (y : ℚ) : Prop := IsFinite a ∧ x ≤ valueOf a ∧ valueOf a ≤ y

theorem inRange_of_between {lo a hi : F32} (hlo : IsFinite lo) (hhi : IsFinite hi) (h : Between lo a hi) :
    InRange (valueOf lo) a (valueOf hi) := by
  have ha := isFinite_of_fle hlo hhi h.1 h.2
  exact ⟨ha, (fle_iff_valueOf hlo ha).1 h.1, (fle_iff_valueOf ha hhi).1 h.2⟩

/-- 2π·fc is below 2^18 for a cutoff in [0, 22050]. -/
theorem twoPi_mul_range {fc : F32} (h : InRange 0 fc 22050) : InRange 0 (fmul Config.TWO_PI fc) 262144 := by
  obtain ⟨hf, hlo, hhi⟩ := h
  have h262144 : valueOf 0x48800000 = 262144 := by
    simpa using valueOf_eq_of_fields (a := 0x48800000) 262144 1 (by decide) (by decide)
  refine (roundedOnce_fmul (by decide) hf).between (by decide) (by decide) valueOf_zero h262144 ?_ ?_
  · rw [valueOf_twoPi]; positivity
  · rw [valueOf_twoPi]; linarith

/-- One divided by the sample rate and added to 1, such a product is below 16. -/
theorem one_add_div_range {p : F32} (h : InRange 0 p 262144) : InRange 1 (fadd fOne (fdiv p f44100)) 16 := by
  obtain ⟨hf, hlo, hhi⟩ := h
  have h8 : valueOf 0x41000000 = 8 := by simpa using valueOf_eq_of_fields (a := 0x41000000) 8 1 (by decide) (by decide)
  have h16 : valueOf 0x41800000 = 16 := by simpa using valueOf_eq_of_fields (a := 0x41800000) 16 1 (by decide) (by decide)
  have hne : valueOf f44100 ≠ 0 := by rw [valueOf_f44100]; norm_num
  obtain ⟨hq, hqlo, hqhi⟩ := (roundedOnce_fdiv hf (by decide) hne).between (by decide) (by decide) valueOf_zero h8
    (by rw [valueOf_f44100]; positivity) (by rw [valueOf_f44100]; linarith)
  refine (roundedOnce_fadd (by decide) hq).between (by decide) (by decide) valueOf_fOne h16 ?_ ?_
  · rw [valueOf_fOne]; linarith
  · rw [valueOf_fOne]; linarith

/-- The reciprocal of a value in [1, 16] is in [1/16, 1]. -/
theorem one_div_range {d : F32} (h : InRange 1 d 16) : InRange (1 / 16) (fdiv fOne d) 1 := by
  obtain ⟨hf, hlo, hhi⟩ := h
  have h16th : valueOf 0x3D800000 = 1 / 16 := by
    simpa using valueOf_eq_of_fields (a := 0x3D800000) 1 16 (by decide) (by decide)
  have hpos : 0 < valueOf d := by linarith
  refine (roundedOnce_fdiv (by decide) hf hpos.ne').between (by decide) (by decide) h16th valueOf_fOne ?_ ?_
  · rw [valueOf_fOne]; exact one_div_le_one_div_of_le hpos hhi
  · rw [valueOf_fOne, div_le_one hpos]; exact hlo

/-- For a cutoff in [0, 22050] the coefficient 1/(1 + 2π·fc/SR) is in (0, 1] (R166). -/
theorem highPassCoef_range {fc : F32} (h : Between 0 fc f22050) :
    flt 0 (highPassCoef fc) = true ∧ fle (highPassCoef fc) fOne = true := by
  have hfc := inRange_of_between (by decide) (by decide) h
  rw [valueOf_zero, valueOf_f22050] at hfc
  obtain ⟨hf, hlo, hhi⟩ := one_div_range (one_add_div_range (twoPi_mul_range hfc))
  refine ⟨(flt_iff_valueOf (by decide) hf).2 ?_, (fle_iff_valueOf hf (by decide)).2 ?_⟩
  · rw [valueOf_zero]; linarith
  · rwa [valueOf_fOne]

end Sys2Proof.Laws
end

section
/-! SUPPORT. Each change of a track keeps its legal ranges (R28, R37, R160, R166). -/

namespace Sys2Proof.Laws

open Sys2Proof Sys2Proof.Machine

/-- The ranges of the configuration, the sampler, the all-pass indices and the high-pass units. -/
abbrev RangesLegal (tr : Track) : Prop := tr.ConfigLegal ∧ tr.SamplerLegal ∧ tr.ReverbLegal ∧ tr.FilterLegal

/-! ## All-pass indices and high-pass units -/

theorem reverbLegal_setApidx {tr : Track} (h : tr.ReverbLegal) (v : Fin Config.NSTAGE) {i : BitVec 10}
    (hi : i.toNat < Config.REVLEN v) : (tr.setApidx v i).ReverbLegal := by
  intro w
  rcases eq_or_ne w v with rfl | hne
  · rwa [setApidx_same]
  · rw [setApidx_ne tr i hne]
    exact h w

/-- The index after one tick of a stage is inside the buffer (R161). -/
theorem toNat_nextIndex_lt (v : Fin Config.NSTAGE) (n : Nat) :
    (BitVec.ofNat 10 ((n + 1) % Config.REVLEN v)).toNat < Config.REVLEN v := by
  have hlt := Nat.mod_lt (n + 1) (revlen_pos v)
  have hle := revlen_le v
  rwa [BitVec.toNat_ofNat, Nat.mod_eq_of_lt (by omega)]

theorem reverbLegal_zero (tr : Track) (x : F32) :
    Track.ReverbLegal { tr with apidx := Vector.replicate Config.NSTAGE 0, rbus := x } := by
  intro v
  rw [Vector.getElem_replicate]
  exact revlen_pos v

theorem filterLegal_setHpf {tr : Track} (h : tr.FilterLegal) (v : Fin Config.NHPF) {u : HighPass}
    (hu : Between 0 u.cut f22050 ∧ flt 0 u.coef = true ∧ fle u.coef fOne = true) : (tr.setHpf v u).FilterLegal := by
  intro w
  rcases eq_or_ne w v with rfl | hne
  · rwa [setHpf_same]
  · rw [setHpf_ne tr u hne]
    exact h w

/-! ## The sampler's buffer -/

/-- SMP.SETS cuts the buffer to the sample memory (R143). -/
theorem fitBuffer_le (base len : Word) : (fitBuffer base len).1.toNat + (fitBuffer base len).2.toNat ≤ Config.SMEMLEN := by
  unfold fitBuffer
  split
  · decide
  · split
    · dsimp only
      rw [BitVec.toNat_ofNat, Nat.mod_eq_of_lt (by omega)]
      omega
    · dsimp only
      omega

/-! ## The changes -/

/-- The step counter may take any legal value. -/
theorem configLegal_scnt {tr : Track} (h : tr.ConfigLegal) (q : BitVec 4) {n : Word} (hn : n.toNat ≤ 661500) :
    Track.ConfigLegal { tr with step := q, scnt := n } := by
  obtain ⟨hvol, hpan, hdsend, hrsend, hseqvol, hdlvl, hdfb, hdspr, hglide, hbpm, hsps, -⟩ := h
  exact ⟨hvol, hpan, hdsend, hrsend, hseqvol, hdlvl, hdfb, hdspr, hglide, hbpm, hsps, hn⟩

/-- A legal SPS is at least 1 and at most 661500, so that the count-down from it does not wrap (R33, R206). -/
theorem sps_range {tr : Track} (h : tr.ConfigLegal) : 1 ≤ tr.sps.toNat ∧ tr.sps.toNat ≤ 661500 := by
  obtain ⟨-, -, -, -, -, -, -, -, -, hbpm, hsps, -⟩ := h
  rw [hsps]
  exact ⟨Nat.div_pos (tr.bpm.isLt.le.trans (by norm_num)) hbpm, Nat.div_le_self _ _⟩

theorem scnt_le {tr : Track} (h : tr.ConfigLegal) : tr.scnt.toNat ≤ 661500 := by
  obtain ⟨-, -, -, -, -, -, -, -, -, -, -, hscnt⟩ := h
  exact hscnt

theorem unitChange_rangesLegal {tr tr' : Track} (hchange : UnitChange tr tr') (h : RangesLegal tr) : RangesLegal tr' := by
  obtain ⟨hconfig, hsampler, hreverb, hfilter⟩ := h
  cases hchange with
  | voice gate amp fcur ftgt ginc gcnt => exact ⟨hconfig, hsampler, hreverb, hfilter⟩
  | tune f owti => exact ⟨hconfig, hsampler, hreverb, hfilter⟩
  | phase => exact ⟨hconfig, hsampler, hreverb, hfilter⟩
  | rewind => exact ⟨hconfig, ⟨hsampler.1, Nat.zero_le _⟩, hreverb, hfilter⟩
  | sample hlt =>
    have hpos : (tr.spos + 1).toNat ≤ tr.slen.toNat := by bv_omega
    exact ⟨hconfig, ⟨hsampler.1, hpos⟩, hreverb, hfilter⟩
  | stage v hlt => exact ⟨hconfig, hsampler, reverbLegal_setApidx hreverb v (toNat_nextIndex_lt v _), hfilter⟩
  | highPass v x y => exact ⟨hconfig, hsampler, hreverb, filterLegal_setHpf hfilter v (hfilter v)⟩
  | delay => exact ⟨hconfig, hsampler, hreverb, hfilter⟩
  | bus x => exact ⟨hconfig, hsampler, hreverb, hfilter⟩
  | boundary q =>
    obtain ⟨hpos, hle⟩ := sps_range hconfig
    have hscnt : (tr.sps - 1).toNat ≤ 661500 := by bv_omega
    exact ⟨configLegal_scnt hconfig q hscnt, hsampler, hreverb, hfilter⟩
  | countDown hne =>
    have hle := scnt_le hconfig
    have hscnt : (tr.scnt - 1).toNat ≤ 661500 := by bv_omega
    exact ⟨configLegal_scnt hconfig tr.step hscnt, hsampler, hreverb, hfilter⟩

theorem le_toNat_of_clampu (v : Word) : 1 ≤ (BitVec.ofNat 16 (clampu v 1 65535)).toNat := by
  rw [toNat_bpm_of_clampu, clampu_eq_min_max v (by decide)]
  omega

/-- A CSRW stores a legal value (R25): whichever register it is, each range is the old one or that of a clamped value. -/
theorem write_rangesLegal {r : TrackReg} {v : Word} {tr tr' : Track} {hit : Bool} (hw : r.write v tr = some (tr', hit))
    (h : RangesLegal tr) : RangesLegal tr' := by
  have hlevel : Between 0 (clampf v 0 fOne) fOne := clampf_between v (by decide)
  have hpan' : Between fMinusOne (clampf v fMinusOne fOne) fOne := clampf_between v (by decide)
  have hcount := le_toNat_of_clampu v
  have hsps' : (spsOf (clampu v 1 65535)).toNat = 661500 / (BitVec.ofNat 16 (clampu v 1 65535)).toNat := by
    rw [toNat_spsOf, toNat_bpm_of_clampu]
  obtain ⟨⟨hvol, hpan, hdsend, hrsend, hseqvol, hdlvl, hdfb, hdspr, hglide, hbpm, hsps, hscnt⟩, hunits⟩ := h
  cases r <;> cases hw <;> refine ⟨⟨?_, ?_, ?_, ?_, ?_, ?_, ?_, ?_, ?_, ?_, ?_, ?_⟩, hunits⟩ <;> assumption

/-- INIT clears the counter, the position and the histories and keeps what is configured (R294). -/
theorem initRegs_rangesLegal {tr : Track} (h : RangesLegal tr) : RangesLegal (initRegs tr) := by
  obtain ⟨hconfig, hsampler, hreverb, hfilter⟩ := h
  refine ⟨configLegal_scnt hconfig 0 (n := 0) (by decide), ⟨hsampler.1, Nat.zero_le _⟩, hreverb, fun v => ?_⟩
  have hmap : (initRegs tr).hpf[v.val] = clearHistory tr.hpf[v.val] := by simp [initRegs]
  rw [hmap]
  exact hfilter v

theorem trackChange_rangesLegal (tr tr' : Track) (hchange : TrackChange tr tr') (h : RangesLegal tr) : RangesLegal tr' := by
  cases hchange with
  | unit hunit => exact unitChange_rangesLegal hunit h
  | write r v hit hw => exact write_rangesLegal hw h
  | init => exact initRegs_rangesLegal h
  | reset => exact ⟨reset_configLegal, reset_samplerLegal, reset_reverbLegal, reset_filterLegal⟩
  | retime time => exact h
  | buffer base len =>
    obtain ⟨hconfig, -, hreverb, hfilter⟩ := h
    exact ⟨hconfig, ⟨fitBuffer_le base len, Nat.zero_le _⟩, hreverb, hfilter⟩
  | cutoff v f =>
    obtain ⟨hconfig, hsampler, hreverb, hfilter⟩ := h
    have hcut : Between 0 (clampf f 0 f22050) f22050 := clampf_between f (by decide)
    exact ⟨hconfig, hsampler, hreverb, filterLegal_setHpf hfilter v ⟨hcut, highPassCoef_range hcut⟩⟩
  | muteReverb =>
    obtain ⟨hconfig, hsampler, -, hfilter⟩ := h
    exact ⟨hconfig, hsampler, reverbLegal_zero tr 0, hfilter⟩

end Sys2Proof.Laws
end

section
/-! PROOF. The legal ranges are an invariant (O57). -/

namespace Sys2Proof.Proofs

open Sys2Proof Sys2Proof.Machine Sys2Proof.Laws

/-- Settles O57: a step changes a track only as `TrackChange` lists, and each of those changes keeps the ranges. -/
theorem rangesInvariant : Obligations.RangesInvariant :=
  fun _ _ hlegal hstep k => (step_tracksChange hstep).induct trackChange_rangesLegal (hlegal k)

end Sys2Proof.Proofs
end

section
/-! SUPPORT. What a step can do to memory: stores to elements of R60, areas put back to their reset contents, and reset. An invariant
of memory is kept by every step when it is kept by each of these. -/

namespace Sys2Proof.Laws

open Sys2Proof Sys2Proof.Machine Relation

/-! ## Changes of memory -/

/-- The spaces of the pattern flags (R61). -/
def IsFlag (sp : Space) : Prop := sp = .pp ∨ sp = .pa ∨ sp = .ps

/-- One change a step makes to memory. -/
inductive MemoryChange : Memory → Memory → Prop
  /-- A note or a flag is stored in an element (R61, R63). -/
  | byte (m : Memory) {sp : Space} {a : Nat} {v : Byte} (ha : ElementOf sp a) (hw : sp.width = 1)
      (hflag : IsFlag sp → v = 0 ∨ v = 1) :
    MemoryChange m (m.setByte (sp.cell a) v)
  /-- A word is stored in an element (R63). -/
  | word (m : Memory) {sp : Space} {a : Nat} (v : Word) (ha : ElementOf sp a) (hw : sp.width = 4) :
    MemoryChange m (m.setWord (sp.cell a) v)
  /-- An area is put back to its reset contents (R162, R294). -/
  | restore (m : Memory) (lo n : Nat) : MemoryChange m (m.restore lo n)
  /-- The reset input (R290). -/
  | reset (m : Memory) : MemoryChange m []

/-- Memory has gone through changes a step can make. -/
def MemoryChanges (s u : State) : Prop := ReflTransGen MemoryChange s.mem u.mem

namespace MemoryChanges

theorem of_eq {s u : State} (h : u.mem = s.mem) : MemoryChanges s u := by unfold MemoryChanges; rw [h]

theorem trans {s u v : State} (h : MemoryChanges s u) (h' : MemoryChanges u v) : MemoryChanges s v := ReflTransGen.trans h h'

theorem setWordAt (s : State) {sp : Space} {a : Nat} (ha : ElementOf sp a) (hw : sp.width = 4) (v : Word) :
    MemoryChanges s (s.setWordAt sp a v) := .single (.word _ v ha hw)

theorem setByteAt (s : State) {sp : Space} {a : Nat} {v : Byte} (ha : ElementOf sp a) (hw : sp.width = 1)
    (hflag : IsFlag sp → v = 0 ∨ v = 1) : MemoryChanges s (s.setByteAt sp a v) := .single (.byte _ ha hw hflag)

theorem zeroWords (s : State) (sp : Space) (a n : Nat) : MemoryChanges s (s.zeroWords sp a n) := .single (.restore _ _ _)

theorem foldl {α : Type} {f : State → α → State} (h : ∀ s a, MemoryChanges s (f s a)) (l : List α) (s : State) :
    MemoryChanges s (l.foldl f s) := by
  induction l generalizing s with
  | nil => exact .of_eq rfl
  | cons a l ih => exact (h s a).trans (ih _)

end MemoryChanges

/-! ## The addresses the units write -/

theorem elementOf_wtAddr (n : BitVec 7) {k : Nat} (hk : k < 2051) : ElementOf .wt (wtAddr n k) :=
  ⟨n.toNat, k, n.isLt, hk, rfl⟩

theorem elementOf_patternAddr {sp : Space} (hsp : sp.width = 1) (t : Fin Config.NTRK) (k : BitVec 4) :
    ElementOf sp (patternAddr t k) := by
  cases sp with
  | pn | pp | pa | ps => exact ⟨t.val, k.toNat, t.isLt, k.isLt, rfl⟩
  | wt | ft | sm | dl | dr | ap | pb => cases hsp

theorem elementOf_ringAddr {sp : Space} (hsp : sp = .dl ∨ sp = .dr) (t : Fin Config.NTRK) (i : Fin Config.CAP) :
    ElementOf sp (ringAddr t i.val) := by
  rcases hsp with rfl | rfl <;> exact ⟨t.val, i.val, t.isLt, i.isLt, rfl⟩

theorem elementOf_stageAddr (t : Fin Config.NTRK) {v : Fin Config.NSTAGE} {i : Nat} (hi : i < Config.REVLEN v) :
    ElementOf .ap (stageAddr t v i) :=
  ⟨t.val, v, i, t.isLt, hi, rfl⟩

theorem elementOf_frameAddr (b : Fin Config.NBUF) (f : Fin Config.BUFLEN) : ElementOf .pb (frameAddr b f) :=
  ⟨b.val, f.val, b.isLt, f.isLt, rfl⟩

/-! ## Each unit operation -/

theorem memWrite_memoryChanges {sp : Space} {a : Nat} (ha : ElementOf sp a) (v : Word) (s : State) :
    MemoryChanges s (s.memWrite sp a v) := by
  have hbit : ∀ b : BitVec 1, b.setWidth 8 = (0 : Byte) ∨ b.setWidth 8 = (1 : Byte) := by decide
  cases sp with
  | pn => exact .setByteAt s ha rfl (by simp [IsFlag])
  | pp | pa | ps => exact .setByteAt s ha rfl fun _ => hbit _
  | wt | ft | sm | dl | dr | ap | pb => exact .setWordAt s ha rfl v

theorem postIncrement_mem (post : Bool) (ra : Reg) (a : Word) (s : State) : (postIncrement post ra a s).mem = s.mem := by
  cases post <;> rfl

theorem sealTable_memoryChanges (n : BitVec 7) (s : State) : MemoryChanges s (sealTable n s) := by
  have hcopy : ∀ {d : Nat} (c : Nat) (u : State), d < 2051 → MemoryChanges u (copySample n d c u) :=
    fun _ u hd => .setWordAt u (elementOf_wtAddr n hd) rfl _
  exact (hcopy _ s (by decide)).trans ((hcopy 1 _ (by decide)).trans (hcopy 2 _ (by decide)))

theorem oscTick_mem {k : Fin Config.NTRK} {s u : State} {y : F32} (h : oscTick k s = .ok (y, u)) : u.mem = s.mem := by
  obtain ⟨i, -, -, rfl⟩ := oscTick_ok h
  rfl

theorem smpTick_mem {k : Fin Config.NTRK} {s u : State} {y : F32} (h : smpTick k s = .ok (y, u)) : u.mem = s.mem := by
  obtain ⟨-, -, rfl⟩ | ⟨-, -, rfl⟩ := smpTick_ok h <;> rfl

theorem voxTick_mem {k : Fin Config.NTRK} {s u : State} {v : Voice} (h : voxTick k s = .ok (v, u)) : u.mem = s.mem := by
  obtain ⟨raw, s1, hsource, rfl, -⟩ := voxTick_ok h
  have hglide : (glideTick k s).mem = s.mem := by simp
  have hraw : s1.mem = (glideTick k s).mem := by
    unfold sourceTick at hsource
    split at hsource
    · exact oscTick_mem hsource
    · exact smpTick_mem hsource
  exact hraw.trans hglide

theorem apfProc_memoryChanges {k : Fin Config.NTRK} {v : Fin Config.NSTAGE} {x y : F32} {s u : State}
    (h : apfProc k v x s = .ok (y, u)) : MemoryChanges s u := by
  obtain ⟨hlt, -, rfl⟩ := apfProc_ok h
  exact (MemoryChanges.setWordAt s (elementOf_stageAddr k hlt) rfl _).trans (.of_eq rfl)

theorem dlyIn_memoryChanges (k : Fin Config.NTRK) (x : F32) (s : State) : MemoryChanges s (dlyIn k x s) :=
  (MemoryChanges.setWordAt s (elementOf_ringAddr (.inl rfl) k _) rfl _).trans
    (.setWordAt _ (elementOf_ringAddr (.inr rfl) k _) rfl _)

theorem dlyOut_memoryChanges (k : Fin Config.NTRK) (s : State) : MemoryChanges s (dlyOut k s).2 :=
  (MemoryChanges.of_eq rfl).trans <| (MemoryChanges.setWordAt _ (elementOf_ringAddr (.inl rfl) k _) rfl _).trans
    (.setWordAt _ (elementOf_ringAddr (.inr rfl) k _) rfl _)

theorem apfChain_memoryChanges {k : Fin Config.NTRK} {stages : List (Fin Config.NSTAGE)} {x y : F32} {s u : State}
    (h : apfChain k stages x s = .ok (y, u)) : MemoryChanges s u := by
  induction stages generalizing x s with
  | nil => cases h; exact .of_eq rfl
  | cons v rest ih =>
    unfold apfChain at h
    split at h
    · exact (apfProc_memoryChanges ‹_›).trans (ih h)
    · cases h

theorem revProc_memoryChanges {k : Fin Config.NTRK} {s u : State} {y : F32 × F32} (h : revProc k s = .ok (y, u)) :
    MemoryChanges s u := by
  obtain ⟨s1, hleft, hright⟩ := revProc_ok h
  exact (apfChain_memoryChanges (s := s.setTrack k _) hleft).trans (apfChain_memoryChanges hright)

theorem muteStages_memoryChanges (k : Fin Config.NTRK) (s : State) : MemoryChanges s (muteStages k s) :=
  .foldl (fun s v => .zeroWords s .ap (stageAddr k v 0) (Config.REVLEN v)) _ s

theorem revRst_memoryChanges (k : Fin Config.NTRK) (s : State) : MemoryChanges s (revRst k s) :=
  (muteStages_memoryChanges k s).trans (.of_eq (setTrack_mem _ k _))

theorem seqRnds_memoryChanges (k : Fin Config.NTRK) (s : State) : MemoryChanges s (seqRnds k s) := by
  refine .foldl (fun s q => ?_) patternSlots s
  exact (MemoryChanges.of_eq (afterDraw_mem s)).trans (.setByteAt _ (elementOf_patternAddr rfl k q) rfl (by simp [IsFlag]))

theorem rndFlag_memoryChanges {sp : Space} (hsp : sp.width = 1) (k : Fin Config.NTRK) (q : BitVec 4) (s : State) :
    MemoryChanges s (rndFlag sp k q s) := by
  have hbit : ∀ b : Bool, (BitVec.ofBool b).setWidth 8 = (0 : Byte) ∨ (BitVec.ofBool b).setWidth 8 = (1 : Byte) := by decide
  exact (MemoryChanges.of_eq (afterDraw_mem s)).trans (.setByteAt _ (elementOf_patternAddr hsp k q) hsp fun _ => hbit _)

theorem seqRndr_memoryChanges (k : Fin Config.NTRK) (s : State) : MemoryChanges s (seqRndr k s) :=
  .foldl (fun s q => (rndFlag_memoryChanges rfl k q s).trans
    ((rndFlag_memoryChanges rfl k q _).trans (rndFlag_memoryChanges rfl k q _))) patternSlots s

theorem mixTrk_memoryChanges {k : Fin Config.NTRK} {s u : State} (h : mixTrk k s = .ok u) : MemoryChanges s u := by
  obtain ⟨v, s1, r, s3, hvoice, hreverb, rfl⟩ := mixTrk_ok h
  have hbus : ∀ x t, MemoryChanges t (revIn k x t) := fun x t => .of_eq (setTrack_mem t k _)
  exact (MemoryChanges.of_eq (voxTick_mem hvoice)).trans <| (dlyIn_memoryChanges k _ s1).trans <|
    (dlyOut_memoryChanges k _).trans <| (hbus _ _).trans <| (revProc_memoryChanges hreverb).trans (.of_eq rfl)

theorem storeFrame_memoryChanges (s : State) : MemoryChanges s (storeFrame s) :=
  (MemoryChanges.setWordAt s (elementOf_frameAddr _ _) rfl _).trans (.of_eq rfl)

theorem mixEmit_mem (s : State) : (mixEmit s).mem = (storeFrame s).mem := by
  unfold mixEmit
  split
  · rfl
  · simp

theorem mixEmit_memoryChanges (s : State) : MemoryChanges s (mixEmit s) :=
  (storeFrame_memoryChanges s).trans (.of_eq (mixEmit_mem s))

theorem initTrack_memoryChanges (s : State) (k : Fin Config.NTRK) : MemoryChanges s (initTrack s k) := by
  unfold initTrack
  exact (MemoryChanges.of_eq (setTrack_mem s k _)).trans <| (MemoryChanges.zeroWords _ .dl _ _).trans <|
    (MemoryChanges.zeroWords _ .dr _ _).trans (revRst_memoryChanges k _)

theorem beginRun_mem (s : State) : (beginRun s).mem = (allTracks.foldl initTrack s).mem := by
  unfold beginRun initEngine
  generalize allTracks.foldl initTrack s = u
  rfl

theorem beginRun_memoryChanges (s : State) : MemoryChanges s (beginRun s) :=
  (MemoryChanges.foldl initTrack_memoryChanges allTracks s).trans (.of_eq (beginRun_mem s))

/-! ## Each command -/

theorem execCsrr_mem (rd : Reg) (t : BitVec 4) (csr : BitVec 8) (s : State) :
    Ensures (execCsrr rd t csr s) fun u => u.mem = s.mem := by
  have hraise : ∀ c w, (s.raise c w).mem = s.mem := fun c w => rfl
  unfold execCsrr
  refine .ite (.reject hraise _) (.ite ?_ ?_)
  · cases globalReg csr with
    | some g => exact .next rfl
    | none => exact .reject hraise _
  · cases trackReg csr with
    | some r => exact .onTrack hraise fun k => .next rfl
    | none => exact .reject hraise _

theorem globalWrite_mem {g : GlobalReg} {v : Word} {s u : State} (h : g.write v s = some u) : u.mem = s.mem := by
  cases g <;> cases h
  exact ackErr_mem s v

theorem execCsrw_mem (t : BitVec 4) (csr : BitVec 8) (rs : Reg) (s : State) :
    Ensures (execCsrw t csr rs s) fun u => u.mem = s.mem := by
  have hraise : ∀ c w, (s.raise c w).mem = s.mem := fun c w => rfl
  unfold execCsrw
  refine .ite (.reject hraise _) (.ite ?_ ?_)
  · cases globalReg csr with
    | none => exact .reject hraise _
    | some g =>
      dsimp only
      split
      · exact .next (globalWrite_mem ‹_›)
      · exact .reject hraise _
  · cases trackReg csr with
    | none => exact .reject hraise _
    | some r =>
      refine .onTrack hraise fun k => ?_
      split
      · exact .next (by simp)
      · exact .reject hraise _

theorem execStm_memoryChanges (n : BitVec 4) (ra : Reg) (post : Bool) (rv : Reg) (s : State) :
    Ensures (execStm n ra post rv s) (MemoryChanges s) := by
  have hraise : ∀ c w, MemoryChanges s (s.raise c w) := fun c w => .of_eq rfl
  unfold execStm
  refine .onSpace hraise fun sp => .ite (.reject hraise _) (.ite (.reject hraise _) ?_)
  split
  · case isTrue hrange =>
    exact .next ((memWrite_memoryChanges ((inRange_iff sp _).1 hrange) _ s).trans (.of_eq (postIncrement_mem ..)))
  · exact .reject hraise _

theorem exec_memoryChanges (i : Instr) (s : State) : Ensures (exec i s) (MemoryChanges s) := by
  have hraise : ∀ c w, MemoryChanges s (s.raise c w) := fun c w => .of_eq rfl
  have hsetX : ∀ {u : State} {rd : Reg} {y : Word}, MemoryChanges s u → MemoryChanges s (u.setX rd y) :=
    fun h => h.trans (.of_eq rfl)
  cases i <;> unfold exec
  case nop | lil | lih | cvtS16 | mixCvt => exact .next (.of_eq rfl)
  case engStop | engPause | engResume => exact .whenRunning hraise (.next (.of_eq rfl))
  case csrr rd t csr => exact fun u h => .of_eq (execCsrr_mem rd t csr s u h)
  case csrw t csr rs => exact fun u h => .of_eq (execCsrw_mem t csr rs s u h)
  case ldm rd n ra post =>
    exact .onSpace hraise fun sp => .ite (.next (.of_eq (postIncrement_mem post ra _ s))) (.reject hraise _)
  case stm n ra post rv => exact execStm_memoryChanges n ra post rv s
  case engStart =>
    refine .ite (.reject hraise _) (.ite (.next ?_) (.next ?_))
    · exact (MemoryChanges.of_eq (by rw [afterDraw_mem, afterDraw_mem])).trans (beginRun_memoryChanges _)
    · exact .of_eq (by simp)
  case oscSetf t rs => exact .onTrack hraise fun k => .directOnly hraise (.next (.of_eq (by simp)))
  case smpTrig t => exact .onTrack hraise fun k => .directOnly hraise (.next (.of_eq (by simp)))
  case revIn t rs => exact .onTrack hraise fun k => .directOnly hraise (.next (.of_eq (by simp)))
  case seqTick t => exact .onTrack hraise fun k => .directOnly hraise (.next (.of_eq (by simp)))
  case voxTrig t note accent slide => exact .onTrack hraise fun k => .directOnly hraise (.next (.of_eq (by simp)))
  case voxOff t => exact .onTrack hraise fun k => .directOnly hraise (.next (.of_eq (by simp)))
  case smpSets t rb rl => exact .onTrack hraise fun k => .next (.of_eq (by simp))
  case dlySett t rs => exact .onTrack hraise fun k => .next (.of_eq (by simp))
  case mixPan rd t rs => exact .onTrack hraise fun k => .next (.of_eq rfl)
  case hpfSetc t v rs => exact .onTrack hraise fun k => .onHighPass hraise fun w => .next (.of_eq (by simp))
  case oscTick rd t =>
    exact .onTrack hraise fun k => .directOnly hraise (.resultToX fun y u h => hsetX (.of_eq (oscTick_mem h)))
  case smpTick rd t =>
    exact .onTrack hraise fun k => .directOnly hraise (.resultToX fun y u h => hsetX (.of_eq (smpTick_mem h)))
  case hpfProc rd t v rs =>
    refine .onTrack hraise fun k => .onHighPass hraise fun w => .directOnly hraise (.resultToX fun y u h => ?_)
    cases h
    exact hsetX (.of_eq (setTrack_mem s k _))
  case voxTick rd t =>
    refine .onTrack hraise fun k => .directOnly hraise ?_
    split
    · case h_1 v u h => exact .next ((MemoryChanges.of_eq (voxTick_mem h)).trans (.of_eq rfl))
    · exact .fault _
  case wtSeal n => exact .directOnly hraise (.next (sealTable_memoryChanges n s))
  case apfProc rd t v rs =>
    exact .onTrack hraise fun k => .onStage hraise fun w => .directOnly hraise
      (.resultToX fun y u h => hsetX (apfProc_memoryChanges h))
  case apfMute t v =>
    exact .onTrack hraise fun k => .onStage hraise fun w => .directOnly hraise (.next (.zeroWords s .ap _ _))
  case dlyIn t rs => exact .onTrack hraise fun k => .directOnly hraise (.next (dlyIn_memoryChanges k _ s))
  case dlyOut rd t =>
    exact .onTrack hraise fun k => .directOnly hraise (.next ((dlyOut_memoryChanges k s).trans (.of_eq rfl)))
  case revProc rd t =>
    refine .onTrack hraise fun k => .directOnly hraise ?_
    split
    · case h_1 y u h => exact .next ((revProc_memoryChanges h).trans (.of_eq rfl))
    · exact .fault _
  case revRst t => exact .onTrack hraise fun k => .next (revRst_memoryChanges k s)
  case seqRnds t => exact .onTrack hraise fun k => .next (seqRnds_memoryChanges k s)
  case seqRndr t => exact .onTrack hraise fun k => .next (seqRndr_memoryChanges k s)
  case mixTrk t => exact .onTrack hraise fun k => .directOnly hraise (.resultOf fun u h => mixTrk_memoryChanges h)
  case mixEmit => exact .directOnly hraise (.next (mixEmit_memoryChanges s))

/-! ## The step -/

theorem slotStep_memoryChanges {s u : State} (h : slotStep s = .ok u) : MemoryChanges s u := by
  unfold slotStep at h
  split at h
  · cases h
    exact .of_eq (by simp)
  · split at h
    · split at h
      · case h_1 v hv =>
        cases h
        exact (mixTrk_memoryChanges hv).trans (.of_eq (setSlot_mem v _))
      · cases h
    · cases h
      exact (MemoryChanges.of_eq (setSlot_mem s 0)).trans (mixEmit_memoryChanges _)

theorem agentTurn_memoryChanges {s u : State} (h : agentTurn s = .next u) : MemoryChanges s u := by
  obtain ⟨-, rfl | rfl⟩ | ⟨-, hslot⟩ := agentTurn_next h
  · exact .of_eq rfl
  · exact .of_eq rfl
  · exact slotStep_memoryChanges hslot

theorem commandTurn_memoryChanges (w : Word) (s : State) : Ensures (commandTurn w s) (MemoryChanges s) := by
  unfold commandTurn
  split
  · exact exec_memoryChanges _ s
  · exact .next (.of_eq rfl)

/-- Whoever's turn it is, a step changes memory only as `MemoryChange` lists. -/
theorem step_memoryChanges {s u : State} (h : step s = .next u) : MemoryChanges s u := by
  have hdrop : MemoryChanges s s.dropTurn := .of_eq rfl
  unfold step at h
  split at h
  · exact agentTurn_memoryChanges h
  · exact hdrop.trans (commandTurn_memoryChanges _ _ u h)
  · exact hdrop.trans (agentTurn_memoryChanges h)
  · cases h
    exact .single (.reset _)

/-! ## Each change keeps memory canonical and inside the elements -/

/-- A byte of an element, 0 or 1 where the element is a flag. -/
def ElementByte (c : Host.Cell) : Prop :=
  ∃ sp a j, ElementOf sp a ∧ j < sp.width ∧ c.1 = sp.cell a + j ∧ (IsFlag sp → c.2 = 0 ∨ c.2 = 1)

theorem elementsOnly_iff (s : State) : s.ElementsOnly ↔ ∀ c ∈ s.mem, ElementByte c := Iff.rfl

theorem mem_setByte {m : Memory} {a : Nat} {v : Byte} {c : Host.Cell} (h : c ∈ m.setByte a v) : c = (a, v) ∨ c ∈ m := by
  unfold Memory.setByte at h
  split at h
  · exact .inr (List.mem_of_mem_filter h)
  · rw [mem_insert] at h
    exact h.imp_right List.mem_of_mem_filter

/-- A word's cells are at the four addresses of its element. -/
theorem mem_setWord {m : Memory} {a : Nat} {v : Word} {c : Host.Cell} (h : c ∈ m.setWord a v) :
    (∃ j < 4, c.1 = a + j) ∨ c ∈ m := by
  unfold Memory.setWord at h
  rcases mem_setByte h with rfl | h
  · exact .inl ⟨3, by decide, rfl⟩
  rcases mem_setByte h with rfl | h
  · exact .inl ⟨2, by decide, rfl⟩
  rcases mem_setByte h with rfl | h
  · exact .inl ⟨1, by decide, rfl⟩
  exact (mem_setByte h).imp_left fun e => ⟨0, by decide, by rw [e]; rfl⟩

theorem not_isFlag_of_width {sp : Space} (hw : sp.width = 4) : ¬IsFlag sp := by
  rintro (rfl | rfl | rfl) <;> cases hw

theorem memoryChange_wf {m m' : Memory} (hchange : MemoryChange m m') (h : m.wf) : m'.wf := by
  cases hchange with
  | byte ha hw hflag => exact setByte_wf h _ _
  | word v ha hw => exact setWord_wf h _ _
  | restore lo n => exact restore_wf h lo n
  | reset => exact ⟨.nil, List.forall_mem_nil _⟩

theorem memoryChange_elements {m m' : Memory} (hchange : MemoryChange m m') (h : ∀ c ∈ m, ElementByte c) :
    ∀ c ∈ m', ElementByte c := by
  intro c hc
  cases hchange with
  | @byte sp a v ha hw hflag =>
    rcases mem_setByte hc with rfl | hc
    · exact ⟨sp, a, 0, ha, width_pos sp, (Nat.add_zero _).symm, hflag⟩
    · exact h c hc
  | @word sp a v ha hw =>
    rcases mem_setWord hc with ⟨j, hj, hcell⟩ | hc
    · exact ⟨sp, a, j, ha, hw ▸ hj, hcell, fun hf => absurd hf (not_isFlag_of_width hw)⟩
    · exact h c hc
  | restore lo n => exact h c (List.mem_of_mem_filter hc)
  | reset => cases hc

/-- A property of memory that each change keeps, the changes together keep. -/
theorem MemoryChanges.induct {P : Memory → Prop} (hP : ∀ m m', MemoryChange m m' → P m → P m') {s u : State}
    (h : MemoryChanges s u) (hs : P s.mem) : P u.mem := by
  unfold MemoryChanges at h
  generalize u.mem = m at h ⊢
  induction h with
  | refl => exact hs
  | tail _ hstep ih => exact hP _ _ hstep ih

end Sys2Proof.Laws
end

section
/-! PROOF. Memory stays canonical and inside the elements (O58). -/

namespace Sys2Proof.Proofs

open Sys2Proof Sys2Proof.Machine Sys2Proof.Laws

/-- Settles O58: a step changes memory only as `MemoryChange` lists, and each of those changes keeps the canonical form and writes
bytes of elements only. -/
theorem memoryInvariant : Obligations.MemoryInvariant := by
  intro s u hwf helements hstep
  have hchanges := step_memoryChanges hstep
  rw [elementsOnly_iff] at *
  exact ⟨hchanges.induct (P := Memory.wf) (fun _ _ => memoryChange_wf) hwf,
    hchanges.induct (P := fun m => ∀ c ∈ m, ElementByte c) (fun _ _ => memoryChange_elements) helements⟩

end Sys2Proof.Proofs
end

section
/-! SUPPORT. Stores by the host: what an element and a byte read as after a store to an element (R61, R63), and the copies of WT.SEAL
(R146). -/

namespace Sys2Proof.Laws

open Sys2Proof Sys2Proof.Machine

/-! ## Frames -/

theorem keeps_withMem {s : State} {m : Memory} {stored : List (Nat × Nat)}
    (h : ∀ a, (∀ w ∈ stored, a < w.1 ∨ w.1 + w.2 ≤ a) → m.byte a = s.mem.byte a) :
    Keeps s { s with mem := m } [] [] stored where
  regs _ _ := rfl
  tracks _ _ := rfl
  bytes := h
  rest := rfl

theorem keeps_setX {s u : State} {regs : List Reg} {tracks : List (Fin Config.NTRK)} {stored : List (Nat × Nat)}
    (h : Keeps s u regs tracks stored) (r : Reg) (v : Word) : Keeps s (u.setX r v) (r :: regs) tracks stored where
  regs q hq := by
    rw [List.mem_cons, not_or] at hq
    rw [getX_setX_ne u v hq.1, h.regs q hq.2]
  tracks := h.tracks
  bytes := h.bytes
  rest := h.rest

/-! ## A store to an element -/

theorem memWrite_eq (s : State) (sp : Space) (a : Nat) (v : Word) :
    s.memWrite sp a v = { s with mem := (s.memWrite sp a v).mem } := by cases sp <;> rfl

theorem memWrite_byte_ne (s : State) {sp : Space} {a b : Nat} (v : Word) (h : b < sp.cell a ∨ sp.cell a + sp.width ≤ b) :
    (s.memWrite sp a v).mem.byte b = s.mem.byte b := by
  cases sp with
  | pn | pp | pa | ps => exact byte_setByte_ne _ _ (by simp only [Space.width] at h; omega)
  | wt | ft | sm | dl | dr | ap | pb => exact byte_setWord_ne _ v h

/-- An element reads as the stored word, converted to its width. -/
theorem memRead_memWrite_same (s : State) (sp : Space) (a : Nat) (v : Word) :
    (s.memWrite sp a v).memRead sp a = converted sp v := by
  have hnote : v.extractLsb' 0 8 = v.setWidth 8 := by ext i hi; simp
  have hflag : (((v.extractLsb' 0 1).setWidth 8).extractLsb' 0 1).setWidth 32 = v &&& 1 := by
    ext i hi
    rcases Nat.eq_zero_or_pos i with rfl | hpos
    · simp
    · simp [show ¬i < 1 by omega, show i ≠ 0 by omega]
  cases sp with
  | pn => simp only [State.memRead, State.memWrite, byteAt_setByteAt_same, converted, hnote]
  | pp | pa | ps => simp only [State.memRead, State.memWrite, byteAt_setByteAt_same, converted, hflag]
  | wt | ft | sm | dl | dr | ap | pb => simp only [State.memRead, State.memWrite, wordAt_setWordAt_same, converted]

/-- Every other element of every space reads as before. -/
theorem memRead_memWrite_ne (s : State) {sp sp' : Space} {a b : Nat} (v : Word) (ha : ElementOf sp a) (hb : ElementOf sp' b)
    (h : sp' ≠ sp ∨ b ≠ a) : (s.memWrite sp a v).memRead sp' b = s.memRead sp' b := by
  refine memRead_congr fun j hj => memWrite_byte_ne s v ?_
  by_contra hinside
  obtain ⟨hsp, hab, -⟩ := cell_inj (sp := sp) (sp' := sp') (j := sp'.cell b + j - sp.cell a) (j' := j) (elementOf_lt ha)
    (elementOf_lt hb) (by omega) hj (by omega)
  exact h.elim (fun hne => hne hsp.symm) fun hne => hne hab.symm

/-! ## STM -/

theorem postIncrement_getX_same {post : Bool} (hpost : post = true) (ra : Reg) (a : Word) (s : State) :
    (postIncrement post ra a s).getX ra = a + 1 := by
  subst hpost
  exact getX_setX_same s ra _

theorem postIncrement_err (post : Bool) (ra : Reg) (a : Word) (s : State) : (postIncrement post ra a s).err = s.err := by
  cases post <;> rfl

theorem postIncrement_memRead (post : Bool) (ra : Reg) (a : Word) (s : State) (sp : Space) (b : Nat) :
    (postIncrement post ra a s).memRead sp b = s.memRead sp b :=
  memRead_congr fun _ _ => by rw [postIncrement_mem]

theorem keeps_postIncrement {s u : State} {stored : List (Nat × Nat)} (h : Keeps s u [] [] stored) (post : Bool) (ra : Reg)
    (a : Word) : Keeps s (postIncrement post ra a u) (if post then [ra] else []) [] stored := by
  cases post
  · exact h
  · exact keeps_setX h ra _

/-- STM with its checks passed (R126). -/
theorem exec_stm {n ra rv : BitVec 4} {post : Bool} {s : State} {sp : Space} (hn : n.toNat = sp.index) (hpb : sp ≠ .pb)
    (ha : ElementOf sp (s.getX ra).toNat) (hmode : s.status.active = false ∨ sp = .pn ∨ sp = .pp ∨ sp = .pa ∨ sp = .ps) :
    exec (.stm n ra post rv) s =
      .next (postIncrement post ra (s.getX ra) (s.memWrite sp (s.getX ra).toNat (s.getX rv))) := by
  have hbusy : (sp.directStore && s.status.active) = false := by
    rcases hmode with h | rfl | rfl | rfl | rfl
    · rw [h, Bool.and_false]
    all_goals rfl
  simp only [exec, execStm, onSpace_of_some _ _ _ (spaceOf_eq_some.2 hn), hbusy, Bool.false_eq_true, if_false, if_neg hpb,
    if_pos ((inRange_iff sp _).2 ha)]

/-! ## WT.SEAL -/

/-- A wavetable element after one was copied to another. -/
theorem wordAt_copySample (n : BitVec 7) {d k : Nat} (c : Nat) (s : State) (hd : d < 2051) (hk : k < 2051) :
    (copySample n d c s).wordAt .wt (wtAddr n k) = if k = d then s.wordAt .wt (wtAddr n c) else s.wordAt .wt (wtAddr n k) := by
  have hlt : ∀ {k}, k < 2051 → wtAddr n k < 2 ^ 32 := fun h => elementOf_lt (elementOf_wtAddr n h)
  split
  · case isTrue h => subst h; exact wordAt_setWordAt_same ..
  · case isFalse h =>
    exact wordAt_setWordAt_ne s _ (hlt hd) (hlt hk) rfl rfl (.inr fun e => h (Nat.add_left_cancel e))

theorem exec_wtSeal (n : BitVec 7) {s : State} (h : s.status.active = false) : exec (.wtSeal n) s = .next (sealTable n s) :=
  directOnly_of_direct _ _ h

theorem sealTable_eq (n : BitVec 7) (s : State) : sealTable n s = { s with mem := (sealTable n s).mem } := rfl

theorem sealTable_wordAt (n : BitVec 7) (s : State) :
    (sealTable n s).wordAt .wt (wtAddr n 0) = s.wordAt .wt (wtAddr n 2048) ∧
    (sealTable n s).wordAt .wt (wtAddr n 2049) = s.wordAt .wt (wtAddr n 1) ∧
    (sealTable n s).wordAt .wt (wtAddr n 2050) = s.wordAt .wt (wtAddr n 2) := by
  simp [sealTable, wordAt_copySample, Config.WTLEN]

theorem sealTable_byte (n : BitVec 7) (s : State) {a : Nat} (h : ∀ k, k = 0 ∨ k = 2049 ∨ k = 2050 →
    a < Space.wt.cell (wtAddr n k) ∨ Space.wt.cell (wtAddr n k) + 4 ≤ a) : (sealTable n s).mem.byte a = s.mem.byte a := by
  simp only [sealTable, copySample, setWordAt_mem]
  rw [byte_setWord_ne _ _ (h 2050 (by decide)), byte_setWord_ne _ _ (h 2049 (by decide)), byte_setWord_ne _ _ (h 0 (by decide))]

end Sys2Proof.Laws
end

section
/-! PROOF. STM (O24) and WT.SEAL (O31). -/

namespace Sys2Proof.Proofs

open Sys2Proof Sys2Proof.Machine Sys2Proof.Laws

/-- Settles O24: with its checks passed STM is `memWrite` and the increment; the bytes of different elements are different. -/
theorem stmStoresElement : Obligations.StmStoresElement := by
  intro s n ra post rv sp hn hpb ha hmode
  refine ⟨_, exec_stm hn hpb ha hmode, ?_, fun sp' b hb hne => ?_, fun hpost => postIncrement_getX_same hpost .., ?_, ?_⟩
  · rw [postIncrement_memRead, memRead_memWrite_same]
  · rw [postIncrement_memRead, memRead_memWrite_ne s _ ha hb hne]
  · rw [postIncrement_err, memWrite_eq]
  · refine keeps_postIncrement ?_ post ra _
    rw [memWrite_eq]
    exact keeps_withMem fun b hb => memWrite_byte_ne s _ (hb _ List.mem_cons_self)

/-- Settles O31: the three copies write the guards and read the body, which no guard is part of. -/
theorem sealWritesGuards : Obligations.SealWritesGuards := by
  intro s n hdirect
  obtain ⟨h0, h2049, h2050⟩ := sealTable_wordAt n s
  have hbase : wtAddr n 0 = n.toNat * 4096 := Nat.add_zero _
  have haddr : ∀ k, n.toNat * 4096 + k = wtAddr n k := fun _ => rfl
  refine ⟨_, exec_wtSeal n hdirect, ?_, ?_, ?_, rfl, ?_⟩
  · rw [haddr, ← hbase]; exact h0
  · rw [haddr, haddr]; exact h2049
  · rw [haddr, haddr]; exact h2050
  · rw [sealTable_eq]
    refine keeps_withMem fun a ha => sealTable_byte n s ?_
    simp only [List.forall_mem_cons] at ha
    obtain ⟨ha0, ha2049, ha2050, -⟩ := ha
    rintro k (rfl | rfl | rfl)
    · rw [hbase]; exact ha0
    · exact ha2049
    · exact ha2050

end Sys2Proof.Proofs
end

section
/-! SUPPORT. MIX.EMIT (R229): the frame it stores, the bytes of the buffer it hands off, and what the sinks' answers leave (R239). -/

namespace Sys2Proof.Laws

open Sys2Proof Sys2Proof.Machine

/-! ## Bytes of a word and of a buffer -/

theorem extractLsb'_append_above {w k : Nat} (hi : BitVec w) (lo : Byte) :
    (hi ++ lo).extractLsb' (k + 8) 8 = hi.extractLsb' k 8 := by
  rw [BitVec.extractLsb'_append_eq_of_le (Nat.le_add_left 8 k), Nat.add_sub_cancel]

/-- Byte j of a word is the byte j above its first (R71). -/
theorem extractLsb'_word (m : Memory) (a : Nat) {j : Nat} (hj : j < 4) : (m.word a).extractLsb' (8 * j) 8 = m.byte (a + j) := by
  obtain rfl | rfl | rfl | rfl : j = 0 ∨ j = 1 ∨ j = 2 ∨ j = 3 := by omega
  · exact BitVec.extractLsb'_append_eq_right
  · exact (extractLsb'_append_above _ _).trans BitVec.extractLsb'_append_eq_right
  · exact (extractLsb'_append_above _ _).trans ((extractLsb'_append_above _ _).trans BitVec.extractLsb'_append_eq_right)
  · exact (extractLsb'_append_above _ _).trans ((extractLsb'_append_above _ _).trans BitVec.extractLsb'_append_eq_left)

theorem bufferBytes_length (s : State) (b : Fin Config.NBUF) : (bufferBytes s b).length = 4096 :=
  (List.length_map ..).trans List.length_range

/-- The sinks see the frame words of a buffer in order, each least significant byte first (R71). -/
theorem bufferBytes_getElem? (s : State) (b : Fin Config.NBUF) {f j : Nat} (hf : f < 1024) (hj : j < 4) :
    (bufferBytes s b)[4 * f + j]? = some ((s.memRead .pb (b.val * 1024 + f)).extractLsb' (8 * j) 8) := by
  have hk : 4 * f + j < 4 * Config.BUFLEN := by simp only [Config.BUFLEN]; omega
  have hcell : Space.pb.cell (b.val * Config.BUFLEN) + (4 * f + j) = Space.pb.cell (b.val * 1024 + f) + j := by
    simp only [Space.cell, Space.width, Config.BUFLEN]; omega
  have hword : s.memRead .pb (b.val * 1024 + f) = s.mem.word (Space.pb.cell (b.val * 1024 + f)) := rfl
  rw [hword, extractLsb'_word _ _ hj, ← hcell]
  simp only [bufferBytes, List.getElem?_map, List.getElem?_range hk, Option.map_some]

/-! ## The frame stored -/

theorem exec_mixEmit {s : State} (h : s.status.active = false) : exec .mixEmit s = .next (mixEmit s) := directOnly_of_direct _ _ h

theorem mixEmit_of_inside {s : State} (h : s.rpos.pframe.val + 1 < Config.BUFLEN) :
    mixEmit s = { storeFrame s with rpos := { s.rpos with pframe := ⟨s.rpos.pframe.val + 1, h⟩ } } := by
  unfold mixEmit
  rw [dif_pos h]

theorem mixEmit_of_last {s : State} (h : s.rpos.pframe.val = 1023) : mixEmit s = handoff s.rpos.pbuf (storeFrame s) := by
  unfold mixEmit
  rw [dif_neg (by rw [h]; decide)]

/-- The frame word is at RPOS after MIX.EMIT, and no other byte has changed (R71, R229). -/
theorem mixEmit_stores (s : State) :
    (mixEmit s).memRead .pb (s.rpos.pbuf.val * 1024 + s.rpos.pframe.val) = (pcm16 s.maccr ++ pcm16 s.maccl : BitVec 32) ∧
    ∀ a, (a < (wordArea .pb (s.rpos.pbuf.val * 1024 + s.rpos.pframe.val)).1 ∨
      (wordArea .pb (s.rpos.pbuf.val * 1024 + s.rpos.pframe.val)).1 + 4 ≤ a) → (mixEmit s).mem.byte a = s.mem.byte a := by
  have hread : ∀ u : State, ∀ a, u.memRead .pb a = u.mem.word (Space.pb.cell a) := fun _ _ => rfl
  have hmem : (mixEmit s).mem =
      s.mem.setWord (Space.pb.cell (s.rpos.pbuf.val * 1024 + s.rpos.pframe.val)) (frameWord s) := mixEmit_mem s
  rw [hread, hmem]
  exact ⟨word_setWord_same _ _ _, fun a ha => byte_setWord_ne _ _ ha⟩

/-! ## The sinks -/

theorem offered_inputs {s t : State} (h : t.inputs = s.inputs) (viable : Bool) :
    (if viable then t.afterDraw else t).inputs = (if viable then s.afterDraw else s).inputs := by
  cases viable
  · exact h
  · exact (nextBit_of_inputs h).2

/-- What the two offers leave of STATUS, ERR and the inputs; s1 is the state the capture sink's answer is drawn in (R239). -/
theorem offers_effect {s s1 t : State} (hinputs : t.inputs = s.inputs) (hstatus : t.status = s.status)
    (hs1 : s1 = if s.status.devok then s.afterDraw else s) :
    (offerCapture (offerDevice t)).status =
      { s.status with devok := s.status.devok && s.nextBit, capok := s.status.capok && s1.nextBit } ∧
    (offerCapture (offerDevice t)).err = t.err ||| (if s.status.devok && !s.nextBit then 0x080 else 0) |||
      (if s.status.capok && !s1.nextBit then 0x100 else 0) ∧
    (offerCapture (offerDevice t)).inputs = (if s.status.capok then s1.afterDraw else s1).inputs := by
  obtain ⟨hdstatus, hderr, hdinputs⟩ := offerDevice_effect t
  obtain ⟨hcstatus, hcerr, hcinputs⟩ := offerCapture_effect (offerDevice t)
  rw [hstatus, (nextBit_of_inputs hinputs).1] at hdstatus hderr
  have hinputs1 : (offerDevice t).inputs = s1.inputs := by rw [hdinputs, hstatus, hs1, offered_inputs hinputs]
  rw [hdstatus, (nextBit_of_inputs hinputs1).1] at hcstatus hcerr
  rw [hdstatus, offered_inputs hinputs1] at hcinputs
  exact ⟨hcstatus, by rw [hcerr, hderr], hcinputs⟩

end Sys2Proof.Laws
end

section
/-! PROOF. MIX.EMIT (O49, O50). -/

namespace Sys2Proof.Proofs

open Sys2Proof Sys2Proof.Machine Sys2Proof.Laws

/-- Settles O49: inside a buffer MIX.EMIT is the store and the next frame. -/
theorem emitStoresFrame : Obligations.EmitStoresFrame := by
  intro s hdirect hinside
  obtain ⟨hword, hbytes⟩ := mixEmit_stores s
  refine ⟨_, exec_mixEmit hdirect, hword, ?_⟩
  rw [mixEmit_of_inside (Nat.succ_lt_succ hinside)] at hbytes ⊢
  exact ⟨rfl, rfl, rfl, rfl, rfl, hbytes, rfl⟩

/-- Settles O50: at the last frame MIX.EMIT is the store and the handoff, whose parts are the two offers, the event and the
counters. -/
theorem lastEmitHandsOff : Obligations.LastEmitHandsOff := by
  intro s hdirect hlast
  obtain ⟨hword, hbytes⟩ := mixEmit_stores s
  have hrpos := mixEmit_rpos s
  rw [hlast, mixEmit_of_last hlast] at hword hbytes hrpos
  obtain ⟨hstatus, herr, hinputs⟩ := offers_effect (s := s) (t := storeFrame s) rfl rfl rfl
  have hmem : ∀ a, (handoff s.rpos.pbuf (storeFrame s)).memRead .pb a = (storeFrame s).memRead .pb a := fun a =>
    memRead_congr fun j _ => by simp
  obtain ⟨hx, hinfo, hl, hr, htracks, -⟩ := handoff_frame (storeFrame s) s.rpos.pbuf
  refine ⟨handoff s.rpos.pbuf (storeFrame s), _, _, _, bufferBytes (storeFrame s) s.rpos.pbuf, ?_, rfl, rfl, rfl, rfl,
    bufferBytes_length _ _, fun f j hf hj => ?_, hword, hstatus, herr, hinputs, rfl, rfl, hl, hr, hrpos, hbytes, hx, htracks, hinfo⟩
  · rw [exec_mixEmit hdirect, mixEmit_of_last hlast]
  · rw [bufferBytes_getElem? _ _ hf hj, hmem]

end Sys2Proof.Proofs
end

section
/-! PROOF. A step runs the command at the port (O5). -/

namespace Sys2Proof.Laws

open Sys2Proof Sys2Proof.Machine

theorem step_of_command {s : State} {w : Word} {rest : List Turn} (h : s.inputs.turns = .command w :: rest) :
    step s = commandTurn w s.dropTurn := by
  unfold step
  rw [h]

theorem commandTurn_of_decode {w : Word} {i : Instr} (h : decode w = .ok i) (s : State) : commandTurn w s = exec i s := by
  unfold commandTurn
  rw [h]

theorem dropTurn_of_turns {s : State} {turn : Turn} {rest : List Turn} (h : s.inputs.turns = turn :: rest) :
    s.dropTurn = { s with inputs := { s.inputs with turns := rest } } := by
  unfold State.dropTurn
  rw [h, List.tail_cons]

theorem withFetchWord_toNat (s : State) (w : Word) : s.withFetchWord 32 w.toNat = s.queueCommand w := by
  have hword : tableWord 32 w.toNat = w := by
    rw [tableWord, Nat.mod_eq_of_lt w.isLt, BitVec.ofNat_toNat, BitVec.setWidth_eq]
  rw [State.withFetchWord, hword]

end Sys2Proof.Laws

namespace Sys2Proof.Proofs

open Sys2Proof Sys2Proof.Machine Sys2Proof.Laws

/-- Settles O5: the step takes the head of the turns, decodes its word and executes it on the state without that turn. -/
theorem stepRunsCommand : Obligations.StepRunsCommand := by
  refine ⟨fun s w rest i hturns hdecode => ?_, fun s w i hdecode => ?_⟩
  · rw [step_of_command hturns, commandTurn_of_decode hdecode, dropTurn_of_turns hturns]
  · rw [withFetchWord_toNat, step_of_command (queueCommand_turns s w), commandTurn_of_decode hdecode, dropTurn_queueCommand]

end Sys2Proof.Proofs
end

section
/-! SUPPORT. The decoder inverted (R91 to R95): what each of its checks asks of the fields, and with these the one statement that a
word's fields decode to a command exactly when they are the fields of that well-formed command. -/

namespace Sys2Proof.Laws

open Sys2Proof Sys2Proof.Machine

/-! ## The immediate of format FI -/

@[simp] theorem immOf_fiFields (op : BitVec 8) (t a : BitVec 4) (imm : BitVec 16) : immOf (fiFields op t a imm) = imm := by
  unfold immOf fiFields
  ext i hi
  simp only [BitVec.getElem_append, BitVec.getElem_extractLsb']
  grind

@[simp] theorem fiFields_immOf (f : Fields) : fiFields f.op f.t f.u (immOf f) = f := by
  obtain ⟨op, t, u, rd, rs, rt, fn⟩ := f
  unfold immOf fiFields
  congr 1 <;>
    (ext i hi
     simp only [BitVec.getElem_extractLsb', BitVec.getLsbD_append]
     grind)

/-- Fields are those of format FI as soon as opcode, t, a and the immediate are. -/
theorem eq_fiFields_iff {f : Fields} {op : BitVec 8} {t a : BitVec 4} {imm : BitVec 16} :
    f = fiFields op t a imm ↔ f.op = op ∧ f.t = t ∧ f.u = a ∧ immOf f = imm := by
  constructor
  · rintro rfl
    exact ⟨rfl, rfl, rfl, immOf_fiFields op t a imm⟩
  · rintro ⟨rfl, rfl, rfl, rfl⟩
    exact (fiFields_immOf f).symm

theorem toNat_append_eq_add {v w : Nat} (x : BitVec v) (y : BitVec w) : (x ++ y).toNat = x.toNat * 2 ^ w + y.toNat := by
  rw [BitVec.toNat_append, ← Nat.shiftLeft_add_eq_or_of_lt y.isLt, Nat.shiftLeft_eq]

/-- imm16 is a byte with zeros above it: a CSR index (R93). -/
theorem immOf_eq_byte_iff {f : Fields} {b : BitVec 8} : immOf f = 0#8 ++ b ↔ f.rd = 0 ∧ f.rs = 0 ∧ immLowOf f = b := by
  simp only [immOf, immLowOf, ← BitVec.toNat_inj, toNat_append_eq_add, BitVec.ofNat_eq_ofNat, BitVec.toNat_ofNat]
  omega

/-- The byte under a CSR command's immediate is its index. -/
theorem immLowOf_fiFields_byte (op : BitVec 8) (t a : BitVec 4) (b : BitVec 8) : immLowOf (fiFields op t a (0#8 ++ b)) = b :=
  (immOf_eq_byte_iff.1 (immOf_fiFields op t a _)).2.2

/-- imm16 is a table number with zeros above it (R93). -/
theorem immOf_eq_table_iff {f : Fields} {n : BitVec 7} :
    immOf f = 0#9 ++ n ↔ f.rt.getLsbD 3 = false ∧ f.rd = 0 ∧ f.rs = 0 ∧ f.rt.extractLsb' 0 3 ++ f.fn = n := by
  have hbit : ∀ x : BitVec 4, x.getLsbD 3 = false ↔ x.toNat < 8 := by decide
  simp only [immOf, hbit, ← BitVec.toNat_inj, toNat_append_eq_add, BitVec.extractLsb'_toNat, BitVec.ofNat_eq_ofNat,
    BitVec.toNat_ofNat, Nat.shiftRight_zero]
  omega

/-- imm16 is a note under the accent and slide bits with zeros above them (R93). -/
theorem immOf_eq_trigger_iff {f : Fields} {note : BitVec 8} {accent slide : Bool} :
    immOf f = 0#6 ++ BitVec.ofBool slide ++ BitVec.ofBool accent ++ note ↔ f.rd = 0 ∧ immLowOf f = note ∧
      f.rs.extractLsb' 2 2 = 0#2 ∧ f.rs.getLsbD 0 = accent ∧ f.rs.getLsbD 1 = slide := by
  have hbits : ∀ x : BitVec 4, x.extractLsb' 2 2 = 0#2 ∧ x.getLsbD 0 = accent ∧ x.getLsbD 1 = slide ↔
      x.toNat = 2 * slide.toNat + accent.toNat := by revert accent slide; decide
  have hslide := slide.toNat_le
  have haccent := accent.toNat_le
  rw [hbits]
  simp only [immOf, immLowOf, ← BitVec.toNat_inj, toNat_append_eq_add, BitVec.ofNat_eq_ofNat, BitVec.toNat_ofNat,
    BitVec.toNat_ofBool]
  omega

/-! ## The checks -/

/-- A guard of the decoder lets a command through exactly when its test holds. -/
theorem guard_eq_ok_iff {c : Prop} [Decidable c] {r : Except DecodeError Instr} {e : DecodeError} {i : Instr} :
    (if c then r else .error e) = .ok i ↔ c ∧ r = .ok i := by
  split <;> simp [*]

theorem requireZero_eq_ok_iff {unused : List (BitVec 4)} {i j : Instr} :
    requireZero unused i = .ok j ↔ (∀ x ∈ unused, x = 0) ∧ i = j := by
  rw [requireZero, guard_eq_ok_iff, List.all_eq_true, Except.ok.injEq]
  simp only [beq_iff_eq, BitVec.ofNat_eq_ofNat]

theorem requireCsrTrack_eq_ok_iff {f : Fields} {i j : Instr} :
    requireCsrTrack f i = .ok j ↔ csrTrackOk f.t (immLowOf f) = true ∧ immOf f = 0#8 ++ immLowOf f ∧ i = j := by
  rw [requireCsrTrack, guard_eq_ok_iff, requireZero_eq_ok_iff, immOf_eq_byte_iff]
  simp [and_assoc]

theorem requirePost_eq_ok_iff {f : Fields} {unused : List (BitVec 4)} {i j : Instr} :
    requirePost f unused i = .ok j ↔ f.fn = postField (f.fn.getLsbD 0) ∧ (∀ x ∈ unused, x = 0) ∧ i = j := by
  have hbits : ∀ x : BitVec 4, x.extractLsb' 1 3 = 0#3 ↔ x = postField (x.getLsbD 0) := by decide
  rw [requirePost, guard_eq_ok_iff, beq_iff_eq, hbits, requireZero_eq_ok_iff]

theorem decodeWtSeal_eq_ok_iff {f : Fields} {i : Instr} :
    decodeWtSeal f = .ok i ↔ f.t = 0 ∧ f.u = 0 ∧ ∃ n, immOf f = 0#9 ++ n ∧ .wtSeal n = i := by
  rw [decodeWtSeal, ← ite_not, guard_eq_ok_iff, requireZero_eq_ok_iff]
  simp only [immOf_eq_table_iff, List.forall_mem_cons]
  grind

theorem decodeVoxTrig_eq_ok_iff {f : Fields} {i : Instr} :
    decodeVoxTrig f = .ok i ↔ f.u = 0 ∧ ∃ note accent slide,
      immOf f = 0#6 ++ BitVec.ofBool slide ++ BitVec.ofBool accent ++ note ∧ .voxTrig f.t note accent slide = i := by
  rw [decodeVoxTrig, guard_eq_ok_iff, requireZero_eq_ok_iff]
  simp only [immOf_eq_trigger_iff, List.forall_mem_cons]
  grind

/-! ## The decoder -/

/-- The decoder reads back the fields of a well-formed command. -/
theorem decodeFields_encodeFields {i : Instr} (h : WellFormed i = true) : decodeFields (encodeFields i) = .ok i := by
  cases i with
  | lil rd imm | lih rd imm =>
    exact requireZero_eq_ok_iff.2 ⟨by simp [encodeFields, fiFields], by rw [encodeFields, immOf_fiFields]; rfl⟩
  | csrr r t csr | csrw t csr r =>
    refine requireCsrTrack_eq_ok_iff.2 ⟨?_, ?_, ?_⟩ <;> rw [encodeFields, immLowOf_fiFields_byte]
    · exact h
    · exact immOf_fiFields _ _ _ _
    · rfl
  | ldm rd space ra post | stm space ra post rd =>
    refine requirePost_eq_ok_iff.2 ⟨?_, ?_, ?_⟩ <;> cases post <;> simp [encodeFields, postField]
  | wtSeal n => exact decodeWtSeal_eq_ok_iff.2 ⟨rfl, rfl, n, immOf_fiFields _ _ _ _, rfl⟩
  | voxTrig t note accent slide => exact decodeVoxTrig_eq_ok_iff.2 ⟨rfl, note, accent, slide, immOf_fiFields _ _ _ _, rfl⟩
  | _ => rfl

/-- Fields that decode are those of the command they decode to. The arms with an operand inside the immediate or beside a bit of
`fn` are taken one by one, in the decoder's numbering; in the others the check leaves operand fields and zeros. -/
theorem eq_encodeFields_of_decodeFields {f : Fields} {i : Instr} (h : decodeFields f = .ok i) :
    f = encodeFields i ∧ WellFormed i = true := by
  unfold decodeFields at h
  split at h
  case h_2 hop | h_3 hop => -- LIL, LIH
    obtain ⟨hzero, rfl⟩ := requireZero_eq_ok_iff.1 h
    exact ⟨eq_fiFields_iff.2 ⟨BitVec.eq_of_toNat_eq hop, hzero _ (by simp), rfl, rfl⟩, rfl⟩
  case h_4 hop | h_5 hop => -- CSRR, CSRW
    obtain ⟨htrack, himm, rfl⟩ := requireCsrTrack_eq_ok_iff.1 h
    exact ⟨eq_fiFields_iff.2 ⟨BitVec.eq_of_toNat_eq hop, rfl, rfl, himm⟩, htrack⟩
  case h_18 hop => -- WT.SEAL
    obtain ⟨ht, hu, n, himm, rfl⟩ := decodeWtSeal_eq_ok_iff.1 h
    exact ⟨eq_fiFields_iff.2 ⟨BitVec.eq_of_toNat_eq hop, ht, hu, himm⟩, rfl⟩
  case h_32 hop => -- VOX.TRIG
    obtain ⟨hu, note, accent, slide, himm, rfl⟩ := decodeVoxTrig_eq_ok_iff.1 h
    exact ⟨eq_fiFields_iff.2 ⟨BitVec.eq_of_toNat_eq hop, rfl, hu, himm⟩, rfl⟩
  case h_6 hop | h_7 hop => -- LDM, STM
    obtain ⟨hfn, hzero, rfl⟩ := requirePost_eq_ok_iff.1 h
    obtain ⟨op, t, u, rd, rs, rt, fn⟩ := f
    simp_all [encodeFields, WellFormed, ← BitVec.toNat_inj]
  case h_39 => cases h -- an undefined opcode
  all_goals
    obtain ⟨hzero, rfl⟩ := requireZero_eq_ok_iff.1 h
    obtain ⟨op, t, u, rd, rs, rt, fn⟩ := f
    simp_all [encodeFields, f0Fields, WellFormed, ← BitVec.toNat_inj]

/-- The decoder and the encoder are inverse to each other on fields. -/
theorem decodeFields_eq_ok_iff {f : Fields} {i : Instr} :
    decodeFields f = .ok i ↔ f = encodeFields i ∧ WellFormed i = true := by
  refine ⟨eq_encodeFields_of_decodeFields, ?_⟩
  rintro ⟨rfl, hwf⟩
  exact decodeFields_encodeFields hwf

/-- A word decodes to a command exactly when it is the word of that command and the command is well formed. -/
theorem decode_eq_ok_iff {w : Word} {i : Instr} : decode w = .ok i ↔ encode i = w ∧ WellFormed i = true := by
  rw [decode, decodeFields_eq_ok_iff]
  refine and_congr_left fun _ => ⟨fun h => ?_, fun h => ?_⟩
  · rw [encode, ← h, wordOf_fieldsOf]
  · rw [← h, encode, fieldsOf_wordOf]

end Sys2Proof.Laws
end

section
/-! PROOF. Words and commands (O1, O2, O3). -/

namespace Sys2Proof.Proofs

open Sys2Proof Sys2Proof.Machine Sys2Proof.Laws

/-- Settles O2: the word of a well-formed command decodes to it. -/
theorem decodeEncode : Obligations.DecodeEncode := fun _ hwf => decode_eq_ok_iff.2 ⟨rfl, hwf⟩

/-- Settles O3: a word that decodes is the word of its command, which is well formed. -/
theorem encodeDecode : Obligations.EncodeDecode := fun _ _ hdecode => decode_eq_ok_iff.1 hdecode

/-- Settles O1: each of the nine words is the encoding of its command. -/
theorem knownWordsDecode : Obligations.KnownWordsDecode := by
  refine ⟨?_, ?_, ?_, ?_, ?_, ?_, ?_, ?_, ?_⟩ <;> exact decode_eq_ok_iff.2 (by decide)

end Sys2Proof.Proofs
end

section
/-! SUPPORT. The rows of the opcode table (R94): a word decodes exactly when it is a row's word and has no track beside a global
control-register index. -/

namespace Sys2Proof.Laws

open Sys2Proof Sys2Proof.Machine

/-- The exception of R94 in the fields of a word: a CSR command whose track field is not the one its index allows. -/
theorem globalCsrWithTrack_eq (w : Word) : globalCsrWithTrack w =
    (((fieldsOf w).op == 0x03 || (fieldsOf w).op == 0x04) && !csrTrackOk (fieldsOf w).t (immLowOf (fieldsOf w))) := by
  have hbit : csrIsGlobal (immLowOf (fieldsOf w)) = w.getLsbD 7 := by
    simp only [csrIsGlobal, immLowOf, fieldsOf, BitVec.getLsbD_append, BitVec.getLsbD_extractLsb']
    rfl
  rw [globalCsrWithTrack, csrTrackOk, hbit, Bool.not_or, Bool.not_not, Bool.and_assoc]
  rfl

theorem globalCsrWithTrack_encode {i : Instr} (h : WellFormed i = true) : globalCsrWithTrack (encode i) = false := by
  rw [globalCsrWithTrack_eq, encode, fieldsOf_wordOf]
  cases i with
  | csrr r t csr | csrw t csr r =>
    have htrack : csrTrackOk t csr = true := h
    rw [encodeFields, immLowOf_fiFields_byte, fiFields, htrack, Bool.not_true, Bool.and_false]
  | _ => rfl

/-- A masked word that is a pattern is it field by field. -/
theorem fields_of_masked {w mask pattern : Word} (h : w &&& mask = pattern) :
    (fieldsOf w).op &&& (fieldsOf mask).op = (fieldsOf pattern).op ∧
    (fieldsOf w).t &&& (fieldsOf mask).t = (fieldsOf pattern).t ∧
    (fieldsOf w).u &&& (fieldsOf mask).u = (fieldsOf pattern).u ∧
    (fieldsOf w).rd &&& (fieldsOf mask).rd = (fieldsOf pattern).rd ∧
    (fieldsOf w).rs &&& (fieldsOf mask).rs = (fieldsOf pattern).rs ∧
    (fieldsOf w).rt &&& (fieldsOf mask).rt = (fieldsOf pattern).rt ∧
    (fieldsOf w).fn &&& (fieldsOf mask).fn = (fieldsOf pattern).fn := by
  rw [← h, fieldsOf_and]
  exact ⟨rfl, rfl, rfl, rfl, rfl, rfl, rfl⟩

/-- A word of a row of R94 decodes, the CSR commands with a track beside a global index apart: the row's mask covers the opcode and
the fields the decoder requires to be zero. -/
theorem exists_decode_of_row {w : Word} {j : Instr} (hrow : w &&& (rowOf j).mask = (rowOf j).pattern)
    (hcsr : globalCsrWithTrack w = false) : ∃ i, decode w = .ok i := by
  have hbyte (x : BitVec 8) : x &&& 255#8 = x := BitVec.and_allOnes
  have hall (x : BitVec 4) : x &&& 15#4 = x := BitVec.and_allOnes
  have hpost : ∀ x : BitVec 4, x &&& 14#4 = 0#4 ↔ x = postField (x.getLsbD 0) := by decide
  have htable : ∀ x : BitVec 4, x &&& 8#4 = 0#4 ↔ x.getLsbD 3 = false := by decide
  have htrigger : ∀ x : BitVec 4, x &&& 12#4 = 0#4 ↔ x.extractLsb' 2 2 = 0#2 := by decide
  rw [globalCsrWithTrack_eq] at hcsr
  rw [decode]
  cases j
  all_goals
    dsimp only [rowOf] at hrow
    have hfields := fields_of_masked hrow
    generalize fieldsOf w = f at hfields hcsr
    simp only [fieldsOf, BitVec.reduceExtractLsb', hbyte, hall, hpost, htable, htrigger,
      BitVec.and_zero, true_and, and_true] at hfields
  case csrr | csrw =>
    obtain ⟨hop, hrd, hrs⟩ := hfields
    have htrack : csrTrackOk f.t (immLowOf f) = true := by simpa [hop] using hcsr
    simp only [decodeFields, hop, BitVec.reduceToNat]
    exact ⟨_, requireCsrTrack_eq_ok_iff.2 ⟨htrack, immOf_eq_byte_iff.2 ⟨hrd, hrs, rfl⟩, rfl⟩⟩
  case ldm | stm =>
    obtain ⟨hop, ht, hunused, hfn⟩ := hfields
    simp only [decodeFields, hop, BitVec.reduceToNat]
    exact ⟨_, requirePost_eq_ok_iff.2 ⟨hfn, by simp [ht, hunused], rfl⟩⟩
  case wtSeal =>
    obtain ⟨hop, ht, hu, hrd, hrs, hrt⟩ := hfields
    simp only [decodeFields, hop, BitVec.reduceToNat]
    exact ⟨_, decodeWtSeal_eq_ok_iff.2 ⟨ht, hu, _, immOf_eq_table_iff.2 ⟨hrt, hrd, hrs, rfl⟩, rfl⟩⟩
  case voxTrig =>
    obtain ⟨hop, hu, hrd, hrs⟩ := hfields
    simp only [decodeFields, hop, BitVec.reduceToNat]
    exact ⟨_, decodeVoxTrig_eq_ok_iff.2 ⟨hu, _, _, _, immOf_eq_trigger_iff.2 ⟨hrd, rfl, hrs, rfl, rfl⟩, rfl⟩⟩
  all_goals simp [decodeFields, requireZero_eq_ok_iff, hfields]

/-- The word of every command is in the command's row (R94). -/
theorem encodesInTable (i : Instr) : EncodesInTable.Statement i := by
  cases i
  exacts [EncodesInTable.nop, EncodesInTable.lil _ _, EncodesInTable.lih _ _, EncodesInTable.csrr _ _ _,
    EncodesInTable.csrw _ _ _, EncodesInTable.ldm _ _ _ _, EncodesInTable.stm _ _ _ _, EncodesInTable.cvtS16 _ _,
    EncodesInTable.engStart, EncodesInTable.engStop, EncodesInTable.engPause, EncodesInTable.engResume,
    EncodesInTable.oscSetf _ _, EncodesInTable.oscTick _ _, EncodesInTable.smpSets _ _ _, EncodesInTable.smpTrig _,
    EncodesInTable.smpTick _ _, EncodesInTable.wtSeal _, EncodesInTable.apfProc _ _ _ _, EncodesInTable.apfMute _ _,
    EncodesInTable.hpfProc _ _ _ _, EncodesInTable.hpfSetc _ _ _, EncodesInTable.dlyIn _ _, EncodesInTable.dlyOut _ _,
    EncodesInTable.dlySett _ _, EncodesInTable.revIn _ _, EncodesInTable.revProc _ _, EncodesInTable.revRst _,
    EncodesInTable.seqTick _, EncodesInTable.seqRnds _, EncodesInTable.seqRndr _, EncodesInTable.voxTrig _ _ _ _,
    EncodesInTable.voxOff _, EncodesInTable.voxTick _ _, EncodesInTable.mixTrk _, EncodesInTable.mixPan _ _ _,
    EncodesInTable.mixEmit, EncodesInTable.mixCvt _ _]

/-- A word that decodes is in the row of its command, and is not the exception. -/
theorem row_of_decode {w : Word} {i : Instr} (h : decode w = .ok i) :
    w &&& (rowOf i).mask = (rowOf i).pattern ∧ globalCsrWithTrack w = false := by
  obtain ⟨rfl, hwf⟩ := decode_eq_ok_iff.1 h
  exact ⟨encodesInTable i, globalCsrWithTrack_encode hwf⟩

theorem commandTurn_of_error {w : Word} {e : DecodeError} (h : decode w = .error e) (s : State) :
    commandTurn w s = .next { s with err := s.err ||| 0x001, errinfo := w } := by
  unfold commandTurn
  rw [h]
  rfl

end Sys2Proof.Laws

namespace Sys2Proof.Proofs

open Sys2Proof Sys2Proof.Machine Sys2Proof.Laws

/-- Settles O4: a row's word decodes, and a word that decodes is in its command's row, so every other word is illegal. -/
theorem wordIsCommandOrIllegal : Obligations.WordIsCommandOrIllegal := by
  refine ⟨fun w ⟨j, hrow⟩ hcsr => ?_, fun w hother s => ?_, by decide,
    commandTurn_of_error (e := .undefinedOpcode) (by decide)⟩
  · obtain ⟨i, hdecode⟩ := exists_decode_of_row hrow hcsr
    exact ⟨i, hdecode, (row_of_decode hdecode).1⟩
  · cases hdecode : decode w with
    | error e => exact commandTurn_of_error hdecode s
    | ok i =>
      obtain ⟨hrow, hcsr⟩ := row_of_decode hdecode
      rcases hother with hnone | hglobal
      · exact absurd ⟨i, hrow⟩ hnone
      · rw [hcsr] at hglobal
        cases hglobal

end Sys2Proof.Proofs
end

section
/-! PROOF. MIX.PAN (O47). -/

namespace Sys2Proof.Laws

open Sys2Proof Sys2Proof.Machine

theorem reg_ne_succ (rd : Reg) : rd ≠ rd + 1 := by revert rd; decide

@[simp] theorem getX_setPair_fst (s : State) (rd : Reg) (v : Word × Word) : (s.setPair rd v).getX rd = v.1 := by
  rw [State.setPair, getX_setX_ne _ _ (reg_ne_succ rd), getX_setX_same]

@[simp] theorem getX_setPair_snd (s : State) (rd : Reg) (v : Word × Word) : (s.setPair rd v).getX (rd + 1) = v.2 :=
  getX_setX_same _ _ _

/-- A result pair goes into its two registers and changes nothing else (R97). -/
theorem onlyX_setPair (s : State) (rd : Reg) (v : Word × Word) : OnlyX s (s.setPair rd v) [rd, rd + 1] where
  left :=
    { regs := fun r hr => by
        simp only [List.mem_cons, List.not_mem_nil, or_false, not_or] at hr
        obtain ⟨hfst, hsnd⟩ := hr
        rw [State.setPair, getX_setX_ne _ _ hsnd, getX_setX_ne _ _ hfst]
      tracks := fun _ _ => rfl
      bytes := fun _ _ => rfl
      rest := rfl }
  right := rfl

/-- MIX.PAN runs in both modes, on the registers as they were before it (R97, R226). -/
theorem exec_mixPan (s : State) (k : Fin Config.NTRK) (rd rs : Reg) : exec (.mixPan rd (trackField k) rs) s =
    .next (s.setPair rd (mixPan (s.track k) (s.getX rs) (s.getX (rs + 1)))) := by
  simp only [exec, execMixPan, onTrack_field]

end Sys2Proof.Laws

namespace Sys2Proof.Proofs

open Sys2Proof Sys2Proof.Machine Sys2Proof.Laws

/-- Settles O47: the pair MIX.PAN writes is its unit operation on the two inputs, with the gains clipped at one. -/
theorem panLaw : Obligations.PanLaw := fun s k rd rs =>
  ⟨_, clipGain (fsub fOne (s.track k).pan), clipGain (fadd fOne (s.track k).pan), exec_mixPan s k rd rs, rfl, rfl,
    getX_setPair_fst _ _ _, getX_setPair_snd _ _ _, onlyX_setPair _ _ _⟩

end Sys2Proof.Proofs
end

section
/-! SUPPORT. A quotient of an integer by a power of two that binary32 holds exactly, which the conversion of a sample divides without
rounding (rules R9 and R127). -/

namespace Sys2Proof.Laws

open Sys2Proof Sys2Proof.Machine

/-- k added to the exponent field of a normal magnitude doubles its value k times. -/
theorem gridValue_add_exponent {m : Nat} (hm : 2 ^ 23 ≤ m) (k : Nat) : gridValue (m + k * 2 ^ 23) = gridValue m * 2 ^ k := by
  obtain ⟨s, n, rfl, hn, hs⟩ := exists_significand m
  have hnormal : 2 ^ 23 ≤ n := by omega
  rw [show s * 2 ^ 23 + n + k * 2 ^ 23 = (s + k) * 2 ^ 23 + n by ring, gridValue_add hn.le (.inr hnormal), gridValue_add hn.le hs,
    mul_assoc, ← zpow_natCast, ← zpow_add₀ (by norm_num)]
  congr 2
  push_cast
  ring

theorem gridValue_one : gridValue 0x3F800000 = 1 := by
  rw [show 0x3F800000 = 126 * 2 ^ 23 + 2 ^ 23 by norm_num, gridValue_add (by norm_num) (by norm_num)]
  norm_num

/-- An integer up to 2^24 divided by 2^k is the value of a finite magnitude; up to k = 126 no quotient is subnormal. -/
theorem exists_gridValue_eq_div {m k : Nat} (hm : m ≤ 2 ^ 24) (hk : k ≤ 126) :
    ∃ C < 0x7F800000, gridValue C = (m : ℚ) / 2 ^ k := by
  rcases Nat.eq_zero_or_pos m with rfl | hpos
  · exact ⟨0, by norm_num, by simp⟩
  obtain ⟨C, hC, hv⟩ := exists_gridValue_eq_nat hm
  have hone : 0x3F800000 ≤ C := by
    rw [← gridValue_strictMono.le_iff_le, gridValue_one, hv]
    exact_mod_cast hpos
  obtain ⟨D, rfl⟩ := Nat.exists_eq_add_of_le' (show k * 2 ^ 23 ≤ C by omega)
  rw [gridValue_add_exponent (by omega)] at hv
  exact ⟨D, by omega, eq_div_of_mul_eq (by positivity) hv⟩

/-- Every such quotient, of either sign, is the value of a finite pattern. -/
theorem exists_valueOf_eq_div {n : Int} {k : Nat} (hn : n.natAbs ≤ 2 ^ 24) (hk : k ≤ 126) :
    ∃ c : F32, IsFinite c ∧ valueOf c = (n : ℚ) / 2 ^ k := by
  obtain ⟨C, hC, hv⟩ := exists_gridValue_eq_div hn hk
  refine ⟨withSign (decide (n < 0)) C, (isFinite_iff _).2 (by rwa [magnitude_withSign _ (by omega)]), ?_⟩
  rw [valueOf_withSign _ (by omega), hv]
  rw [← applySign_natAbs n]
  cases decide (n < 0) <;> simp [applySign, neg_div]

/-- What is rounded once from a value that a finite pattern has is of that value. -/
theorem RoundedOnce.exact {r c : F32} {t : ℚ} (h : RoundedOnce r t) (hc : IsFinite c) (hv : valueOf c = t) :
    IsFinite r ∧ valueOf r = t := by
  obtain ⟨hr, hle, hge⟩ := h.between hc hc hv hv le_rfl le_rfl
  exact ⟨hr, le_antisymm hge hle⟩

theorem toInt_bounds_of_16 (v : BitVec 16) : -32768 ≤ v.toInt ∧ v.toInt ≤ 32767 :=
  ⟨v.le_toInt, Int.le_of_lt_add_one v.toInt_lt⟩

/-- Both operations of CVT.S16 are exact: the integer is at most 2^24, and its quotient by 2^15 keeps the integer's significand. -/
theorem valueOf_cvtS16 (v : Word) :
    IsFinite (cvtS16 v) ∧ valueOf (cvtS16 v) = ((v.extractLsb' 0 16).toInt : ℚ) / 32768 := by
  obtain ⟨hlo, hhi⟩ := toInt_bounds_of_16 (v.extractLsb' 0 16)
  unfold cvtS16
  generalize (v.extractLsb' 0 16).toInt = n at *
  obtain ⟨c, hc, hcv⟩ := exists_valueOf_eq_div (n := n) (k := 0) (by omega) (by norm_num)
  obtain ⟨hfin, hv⟩ := (roundedOnce_i2f n).exact hc (by simpa using hcv)
  have hquot := roundedOnce_fdiv hfin (b := f32768) (by decide) (by rw [valueOf_f32768]; norm_num)
  rw [hv, valueOf_f32768] at hquot
  obtain ⟨d, hd, hdv⟩ := exists_valueOf_eq_div (n := n) (k := 15) (by omega) (by norm_num)
  exact hquot.exact hd (hdv.trans (by norm_num))

/-- The zero of CVT.S16 is +0.0. -/
theorem cvtS16_of_zero {v : Word} (h : v.extractLsb' 0 16 = 0) : cvtS16 v = 0 := by
  rw [cvtS16, h]
  decide

theorem exec_cvtS16 (s : State) (rd rs : Reg) : exec (.cvtS16 rd rs) s = .next (s.setX rd (cvtS16 (s.getX rs))) := rfl

end Sys2Proof.Laws
end

section
/-! PROOF. CVT.S16 (O25). -/

namespace Sys2Proof.Proofs

open Sys2Proof Sys2Proof.Machine Sys2Proof.Laws

/-- Settles O25: the quotient is exact, so its bounds are those of a signed 16-bit integer, over 32768. -/
theorem cvtScalesExactly : Obligations.CvtScalesExactly := by
  intro s rd rs
  obtain ⟨hfin, hv⟩ := valueOf_cvtS16 (s.getX rs)
  obtain ⟨hlo, hhi⟩ := toInt_bounds_of_16 ((s.getX rs).extractLsb' 0 16)
  have hlo : (-32768 : ℚ) ≤ ((s.getX rs).extractLsb' 0 16).toInt := by exact_mod_cast hlo
  have hhi : (((s.getX rs).extractLsb' 0 16).toInt : ℚ) ≤ 32767 := by exact_mod_cast hhi
  refine ⟨_, exec_cvtS16 s rd rs, ?_⟩
  rw [getX_setX_same]
  exact ⟨hfin, hv, by rw [hv]; linarith, by rw [hv]; linarith, cvtS16_of_zero, onlyX_setX s rd _⟩

end Sys2Proof.Proofs
end

section
/-! PROOF. LDM (O23). -/

namespace Sys2Proof.Laws

open Sys2Proof Sys2Proof.Machine

theorem keeps_refl (s : State) : Keeps s s [] [] [] := ⟨fun _ _ => rfl, fun _ _ => rfl, fun _ _ => rfl, rfl⟩

/-- LDM with its checks passed (R125). -/
theorem exec_ldm {rd n ra : BitVec 4} {post : Bool} {s : State} {sp : Space} (hn : n.toNat = sp.index)
    (ha : ElementOf sp (s.getX ra).toNat) : exec (.ldm rd n ra post) s =
      .next ((postIncrement post ra (s.getX ra) s).setX rd (s.memRead sp (s.getX ra).toNat)) := by
  simp only [exec, execLdm, onSpace_of_some _ _ _ (spaceOf_eq_some.2 hn), if_pos ((inRange_iff sp _).2 ha)]

end Sys2Proof.Laws

namespace Sys2Proof.Proofs

open Sys2Proof Sys2Proof.Machine Sys2Proof.Laws

/-- Settles O23: X[rd] is written after the increment, so it holds the element also where rd = ra. -/
theorem ldmLoadsElement : Obligations.LdmLoadsElement := by
  intro s rd n ra post sp hn ha
  refine ⟨_, exec_ldm hn ha, getX_setX_same .., fun hpost hne => ?_, ?_, postIncrement_err ..⟩
  · rw [getX_setX_ne _ _ hne, postIncrement_getX_same hpost]
  · have hkeeps := keeps_setX (keeps_postIncrement (keeps_refl s) post ra (s.getX ra)) rd (s.memRead sp (s.getX ra).toNat)
    cases post <;> exact hkeeps

end Sys2Proof.Proofs
end

section
/-! PROOF. NOP, LIL and LIH (O18). -/

namespace Sys2Proof.Laws

open Sys2Proof Sys2Proof.Machine

/-- A word that decodes to no command is rejected with ILLCMD and changes nothing else (R95, R261). -/
theorem commandTurn_of_not_decoded {w : Word} (h : ∀ i, decode w ≠ .ok i) (s : State) :
    commandTurn w s = .next { s with err := s.err ||| 0x001, errinfo := w } := by
  cases hdecode : decode w with
  | error e => exact commandTurn_of_error hdecode s
  | ok i => exact absurd hdecode (h i)

/-! ## Words of opcode 0 -/

/-- A word whose opcode byte is 0 is no command unless it is 0 (R120). -/
theorem eq_zero_of_decode_opcode_zero {low : BitVec 24} {i : Instr} (h : decode (0x00#8 ++ low) = .ok i) : low = 0 := by
  have hop : (fieldsOf (0x00#8 ++ low)).op = 0x00#8 := BitVec.extractLsb'_append_eq_left
  have hnop : Instr.nop = i := by
    simp only [decode, decodeFields, hop] at h
    exact (requireZero_eq_ok_iff.1 h).2
  have hword : encode .nop = 0x00#8 ++ low := hnop ▸ (decode_eq_ok_iff.1 h).1
  have hlow : (0x00#8 ++ low).extractLsb' 0 24 = low := BitVec.extractLsb'_append_eq_right
  rw [← hlow, ← hword]
  decide

/-! ## Words of format FI -/

/-- A word of format FI is its opcode, t, a and immediate one after the other (R92). -/
theorem wordOf_fiFields (op : BitVec 8) (t a : BitVec 4) (imm : BitVec 16) : wordOf (fiFields op t a imm) = op ++ t ++ a ++ imm := by
  simp only [wordOf, fiFields, ← BitVec.toNat_inj, toNat_append_eq_add, BitVec.extractLsb'_toNat, Nat.shiftRight_eq_div_pow]
  omega

/-- The word of a command of format FI with no track, as a number. -/
theorem toNat_wordOf_fiFields (op : BitVec 8) (a : BitVec 4) (imm : BitVec 16) :
    (wordOf (fiFields op 0 a imm)).toNat = op.toNat * 0x01000000 + a.toNat * 65536 + imm.toNat := by
  simp only [wordOf_fiFields, toNat_append_eq_add, BitVec.ofNat_eq_ofNat, BitVec.toNat_ofNat]
  omega

/-- An LIL or LIH word with a track is no command (R121, R122). -/
theorem decode_loadImmediate_with_track {op : BitVec 8} {t rd : BitVec 4} {imm : BitVec 16} (hop : op = 0x01 ∨ op = 0x02)
    (ht : t ≠ 0) (i : Instr) : decode (op ++ t ++ rd ++ imm) ≠ .ok i := by
  intro h
  rw [← wordOf_fiFields, decode_wordOf] at h
  rcases hop with rfl | rfl <;> exact ht ((requireZero_eq_ok_iff.1 h).1 t List.mem_cons_self)

/-! ## The loads -/

theorem exec_lil (s : State) (rd : Reg) (imm : BitVec 16) : exec (.lil rd imm) s = .next (s.setX rd (imm.setWidth 32)) := rfl

theorem exec_lih (s : State) (rd : Reg) (imm : BitVec 16) :
    exec (.lih rd imm) s = .next (s.setX rd (imm ++ (s.getX rd).extractLsb' 0 16)) := rfl

end Sys2Proof.Laws

namespace Sys2Proof.Proofs

open Sys2Proof Sys2Proof.Machine Sys2Proof.Laws

/-- Settles O18: opcode 0 decodes to NOP alone, LIL and LIH words are of format FI, and the decoder asks for a zero t of both. -/
theorem nopAndLoadImmediate : Obligations.NopAndLoadImmediate := by
  refine fun s => ⟨⟨rfl, by decide, fun low hlow => ?_⟩, fun rd imm => ⟨⟨_, exec_lil s rd imm, ?_, onlyX_setX s rd _⟩,
    toNat_wordOf_fiFields 0x01 rd imm, ⟨_, exec_lih s rd imm, ?_, onlyX_setX s rd _⟩, toNat_wordOf_fiFields 0x02 rd imm,
    fun op t hop ht => commandTurn_of_not_decoded (decode_loadImmediate_with_track hop ht) s⟩⟩
  · exact commandTurn_of_not_decoded (fun i hi => hlow (eq_zero_of_decode_opcode_zero hi)) s
  · rw [getX_setX_same, BitVec.toNat_setWidth_of_le (by decide)]
  · rw [getX_setX_same, toNat_append_eq_add, BitVec.extractLsb'_toNat]
    rfl

end Sys2Proof.Proofs
end

section
/-! PROOF. CSRW to ERR (O22). -/

namespace Sys2Proof.Laws

open Sys2Proof Sys2Proof.Machine

theorem exec_csrw_global {csr : BitVec 8} {g : GlobalReg} (h : globalReg csr = some g) {s u : State} {rs : Reg}
    (hw : g.write (s.getX rs) s = some u) : exec (.csrw 0 csr rs) s = .next u := by
  simp [exec, execCsrw, csrTrackOk, csrIsGlobal_of_globalReg h, h, hw]

/-- Each bit of ERR stays unless the written word has it set (R268). -/
theorem getLsbD_ackErr (s : State) (v : Word) {i : Nat} (hi : i < 11) :
    (s.ackErr v).err.getLsbD i = (s.err.getLsbD i && !v.getLsbD i) := by
  rw [ackErr_err]
  simp [hi]

theorem keeps_ackErr (s : State) (v : Word) : Keeps s (s.ackErr v) [] [] [] :=
  ⟨fun _ _ => rfl, fun _ _ => rfl, fun _ _ => rfl, rfl⟩

end Sys2Proof.Laws

namespace Sys2Proof.Proofs

open Sys2Proof Sys2Proof.Machine Sys2Proof.Laws

/-- Settles O22: index 0x81 names ERR, whose write is the acknowledgement. -/
theorem csrwAcknowledges : Obligations.CsrwAcknowledges := fun s _ =>
  ⟨_, exec_csrw_global (g := .err) rfl rfl, fun _ => getLsbD_ackErr s _, keeps_ackErr s _⟩

end Sys2Proof.Proofs
end

section
/-! SUPPORT. Three operations of the oscillator that binary32 does without rounding: scaling up by a power of two, subtracting a
natural number from a value that is not below it, and adding to a zero (rules R9, R141 and R142). -/

namespace Sys2Proof.Laws

open Sys2Proof Sys2Proof.Machine

/-! ## Values a finite pattern has -/

/-- Up to 2^24 a magnitude is its own significand, in the smallest unit. -/
theorem gridValue_of_le {n : Nat} (hn : n ≤ 2 ^ 24) : gridValue n = n / 2 ^ 149 := by
  have h := gridValue_add (s := 0) hn (.inl rfl)
  rw [Nat.zero_mul, Nat.zero_add, Nat.cast_zero, zero_sub, zpow_neg] at h
  exact h.trans (div_eq_mul_inv _ _).symm

/-- Twice the value of a magnitude is the value of one: a subnormal's significand doubles, a normal's exponent goes up by one. -/
theorem exists_gridValue_double (C : Nat) : ∃ D, gridValue D = gridValue C * 2 := by
  rcases Nat.lt_or_ge C (2 ^ 23) with hsub | hnormal
  · refine ⟨C * 2, ?_⟩
    rw [gridValue_of_le (by omega), gridValue_of_le (by omega)]
    push_cast
    ring
  · exact ⟨C + 1 * 2 ^ 23, by rw [gridValue_add_exponent hnormal, pow_one]⟩

theorem exists_gridValue_mul_pow (C k : Nat) : ∃ D, gridValue D = gridValue C * 2 ^ k := by
  induction k with
  | zero => exact ⟨C, by ring⟩
  | succ k ih =>
    obtain ⟨D, hD⟩ := ih
    obtain ⟨E, hE⟩ := exists_gridValue_double D
    exact ⟨E, by rw [hE, hD]; ring⟩

/-- A significand of up to 24 bits over a power of two is a magnitude's value, down to the smallest unit. -/
theorem exists_gridValue_eq_quotient {n t : Nat} (hn : n ≤ 2 ^ 24) (ht : t ≤ 149) : ∃ C, gridValue C = (n : ℚ) / 2 ^ t := by
  obtain ⟨k, hk⟩ := Nat.exists_eq_add_of_le ht
  obtain ⟨C, hC⟩ := exists_gridValue_mul_pow n k
  refine ⟨C, ?_⟩
  rw [hC, gridValue_of_le hn, hk, pow_add]
  field_simp

/-- A magnitude with a value below that of the infinities is a finite pattern's. -/
theorem valueOf_withSign_of_lt {C : Nat} (h : gridValue C < 2 ^ 128) :
    IsFinite (withSign false C) ∧ valueOf (withSign false C) = gridValue C := by
  rw [← gridValue_inf, gridValue_strictMono.lt_iff_lt] at h
  have hC : C < 2 ^ 31 := by omega
  exact ⟨(isFinite_iff _).2 (by rwa [magnitude_withSign false hC]), by rw [valueOf_withSign false hC]; rfl⟩

theorem valueOf_eq_gridValue_of_nonneg {a : F32} (h : 0 ≤ valueOf a) : valueOf a = gridValue (magnitude a) := by
  rw [← abs_of_nonneg h, valueOf_eq_gridValue, abs_applySign, abs_of_nonneg (gridValue_nonneg _)]

/-- A nonzero value is one pattern's only. -/
theorem eq_of_valueOf_eq {a b : F32} (hz : isZero b = false) (h : valueOf a = valueOf b) : a = b := by
  have hne : magnitude b ≠ 0 := fun hb => absurd ((isZero_iff b).2 hb) (by rw [hz]; decide)
  rw [valueOf_eq_signedGrid, valueOf_eq_signedGrid, signedGrid_strictMono.injective.eq_iff, forder_eq, forder_eq, fsign_eq,
    fsign_eq] at h
  simp only [decide_eq_true_eq, magnitude] at h hne
  have := a.isLt
  have := b.isLt
  refine BitVec.eq_of_toNat_eq ?_
  split at h <;> split at h <;> omega

/-- A value in [0, 2^24) is a significand over a power of two. -/
theorem exists_quotient_eq_valueOf {a : F32} (hlo : 0 ≤ valueOf a) (hhi : valueOf a < 2 ^ 24) :
    ∃ n t : Nat, n < 2 ^ 24 ∧ t ≤ 149 ∧ valueOf a = (n : ℚ) / 2 ^ t := by
  obtain ⟨s, n, hm, hn, hs⟩ := exists_significand (magnitude a)
  have hv : valueOf a = n * 2 ^ ((s : Int) - 149) := by
    rw [valueOf_eq_gridValue_of_nonneg hlo, hm, gridValue_add hn.le hs]
  have hs149 : s ≤ 149 := by
    by_contra hlarge
    have hn23 : (2 : ℚ) ^ 23 ≤ n := by exact_mod_cast hs.resolve_left (by omega)
    have hunit : (2 : ℚ) ^ (1 : Int) ≤ 2 ^ ((s : Int) - 149) := zpow_le_zpow_right₀ (by norm_num) (by omega)
    rw [hv] at hhi
    nlinarith
  refine ⟨n, 149 - s, hn, Nat.sub_le _ _, ?_⟩
  rw [hv, show (s : Int) - 149 = -((149 - s : Nat) : Int) by omega, zpow_neg, zpow_natCast, div_eq_mul_inv]

/-! ## Exact operations -/

/-- The product of a phase with 2048 is exact (R141). -/
theorem fmul_f2048_exact {a : F32} (h : InRange 0 a 1) :
    IsFinite (fmul a f2048) ∧ valueOf (fmul a f2048) = valueOf a * 2048 := by
  obtain ⟨ha, hlo, hhi⟩ := h
  have hprod := roundedOnce_fmul ha (b := f2048) (by decide)
  rw [valueOf_f2048] at hprod
  obtain ⟨C, hC⟩ := exists_gridValue_mul_pow (magnitude a) 11
  rw [← valueOf_eq_gridValue_of_nonneg hlo] at hC
  obtain ⟨hfin, hv⟩ := valueOf_withSign_of_lt (C := C) (by rw [hC]; linarith)
  exact hprod.exact hfin (by rw [hv, hC]; norm_num)

/-- What is left of a value below 2^24 after a natural number is taken off is a finite pattern's value: it has a significand over
the same power of two, which is not longer. -/
theorem exists_valueOf_eq_sub_nat {a : F32} (hhi : valueOf a < 2 ^ 24) {i : Nat} (hi : (i : ℚ) ≤ valueOf a) :
    ∃ c, IsFinite c ∧ valueOf c = valueOf a - i := by
  have hnonneg : (0 : ℚ) ≤ i := Nat.cast_nonneg i
  obtain ⟨n, t, hn, ht, hv⟩ := exists_quotient_eq_valueOf (hnonneg.trans hi) hhi
  have hle : i * 2 ^ t ≤ n := by
    rw [hv, le_div_iff₀ (by positivity)] at hi
    exact_mod_cast hi
  obtain ⟨C, hC⟩ := exists_gridValue_eq_quotient (n := n - i * 2 ^ t) (by omega) ht
  have hrest : gridValue C = valueOf a - i := by
    rw [hC, hv, Nat.cast_sub hle]
    push_cast
    field_simp
  obtain ⟨hfin, hvc⟩ := valueOf_withSign_of_lt (C := C) (by rw [hrest]; linarith)
  exact ⟨_, hfin, hvc.trans hrest⟩

/-- Taking off a natural number that is not above the value is exact (R141, R148). -/
theorem fsub_nat_exact {a b : F32} (ha : IsFinite a) (hb : IsFinite b) (hlt : valueOf a < 2 ^ 24) {i : Nat}
    (hvb : valueOf b = i) (hi : (i : ℚ) ≤ valueOf a) :
    IsFinite (fsub a b) ∧ valueOf (fsub a b) = valueOf a - i := by
  obtain ⟨c, hc, hvc⟩ := exists_valueOf_eq_sub_nat hlt hi
  have hdiff := roundedOnce_fsub ha hb
  rw [hvb] at hdiff
  exact hdiff.exact hc hvc

/-- A zero added to a finite value leaves the value. -/
theorem fadd_zero_left_exact {z a : F32} (hz : isZero z = true) (ha : IsFinite a) :
    IsFinite (fadd z a) ∧ valueOf (fadd z a) = valueOf a := by
  have hsum := roundedOnce_fadd (isFinite_of_isZero hz) ha
  rw [(valueOf_eq_zero_iff z).2 hz, zero_add] at hsum
  exact hsum.exact ha rfl

/-- A finite value times a zero is a zero. -/
theorem isZero_fmul_zero_right {a z : F32} (ha : IsFinite a) (hz : isZero z = true) : isZero (fmul a z) = true := by
  rw [fmul_zero_right ha hz, isZero_iff, magnitude_withSign _ (by norm_num)]

/-- The integers up to 2^24 are finite patterns. -/
theorem isFinite_i2f {n : Int} (hn : n.natAbs ≤ 2 ^ 24) : IsFinite (i2f n) := by
  obtain ⟨c, hc, hv⟩ := exists_valueOf_eq_div (k := 0) hn (by norm_num)
  exact ((roundedOnce_i2f n).exact hc (by simpa using hv)).1

end Sys2Proof.Laws
end

section
/-! SUPPORT. The ranges of the oscillator: the increment, the phase and its wrap, the table position with its floor and fraction, and
that each change of a track keeps them (R140, R141, R148). -/

namespace Sys2Proof.Laws

open Sys2Proof Sys2Proof.Machine

/-! ## The increment -/

/-- A frequency in [0, 22050] over the sample rate is an increment in [0, 0.5] (R148). -/
theorem increment_between {f : F32} (h : Between 0 f f22050) : Between 0 (fdiv f f44100) fHalf := by
  obtain ⟨hf, hlo, hhi⟩ := inRange_of_between (by decide) (by decide) h
  rw [valueOf_zero] at hlo
  rw [valueOf_f22050] at hhi
  have hquot := roundedOnce_fdiv hf (b := f44100) (by decide) (by rw [valueOf_f44100]; norm_num)
  rw [valueOf_f44100] at hquot
  obtain ⟨hfin, hqlo, hqhi⟩ := hquot.between (lo := 0) (hi := fHalf) (by decide) (by decide) valueOf_zero valueOf_fHalf
    (by positivity) (by linarith)
  exact ⟨(fle_iff_valueOf (by decide) hfin).2 (by rwa [valueOf_zero]),
    (fle_iff_valueOf hfin (by decide)).2 (by rwa [valueOf_fHalf])⟩

/-! ## The phase -/

/-- A phase is a finite value in [0, 1) (R148). -/
theorem isPhase_iff (a : F32) :
    fle 0 a = true ∧ flt a fOne = true ↔ IsFinite a ∧ 0 ≤ valueOf a ∧ valueOf a < 1 := by
  constructor
  · rintro ⟨hlo, hhi⟩
    have hle : fle a fOne = true := by
      obtain ⟨ha, hone, hlt⟩ := (flt_iff a fOne).1 hhi
      exact (fle_iff a fOne).2 ⟨ha, hone, hlt.le⟩
    have ha : IsFinite a := isFinite_of_fle (by decide) (by decide) hlo hle
    rw [fle_iff_valueOf (by decide) ha, valueOf_zero] at hlo
    rw [flt_iff_valueOf ha (by decide), valueOf_fOne] at hhi
    exact ⟨ha, hlo, hhi⟩
  · rintro ⟨ha, hlo, hhi⟩
    exact ⟨(fle_iff_valueOf (by decide) ha).2 (by rwa [valueOf_zero]),
      (flt_iff_valueOf ha (by decide)).2 (by rwa [valueOf_fOne])⟩

/-- The phase before the wrap is at most 1.5 (R148). -/
theorem phaseSum_range {tr : Track} (h : tr.OscLegal) : InRange 0 (fadd tr.ophase tr.oinc) (3 / 2) := by
  obtain ⟨-, -, hinc, hphase⟩ := h
  obtain ⟨hp, hplo, hphi⟩ := (isPhase_iff _).1 hphase
  obtain ⟨hi, hilo, hihi⟩ := inRange_of_between (by decide) (by decide) hinc
  rw [valueOf_zero] at hilo
  rw [valueOf_fHalf] at hihi
  exact (roundedOnce_fadd hp hi).between (lo := 0) (hi := fOneHalf) (by decide) (by decide) valueOf_zero valueOf_fOneHalf
    (by linarith) (by linarith)

/-- The wrap takes off exactly 1 (R148). -/
theorem valueOf_nextPhase_of_wrap {tr : Track} (h : tr.OscLegal) (hwrap : fle fOne (fadd tr.ophase tr.oinc) = true) :
    IsFinite (nextPhase tr.ophase tr.oinc) ∧
      valueOf (nextPhase tr.ophase tr.oinc) = valueOf (fadd tr.ophase tr.oinc) - 1 := by
  obtain ⟨hsum, -, hhi⟩ := phaseSum_range h
  have hone := (fle_iff_valueOf (by decide) hsum).1 hwrap
  rw [valueOf_fOne] at hone
  have hexact := fsub_nat_exact hsum (b := fOne) (i := 1) (by decide) (by linarith) (by rw [valueOf_fOne]; norm_num)
    (by simpa using hone)
  rw [Nat.cast_one] at hexact
  simpa only [nextPhase, if_pos hwrap] using hexact

/-- The phase after a tick is a phase (R148). -/
theorem nextPhase_range {tr : Track} (h : tr.OscLegal) : IsFinite (nextPhase tr.ophase tr.oinc) ∧
    0 ≤ valueOf (nextPhase tr.ophase tr.oinc) ∧ valueOf (nextPhase tr.ophase tr.oinc) < 1 := by
  obtain ⟨hsum, hlo, hhi⟩ := phaseSum_range h
  have hcmp := fle_iff_valueOf (a := fOne) (by decide) hsum
  rw [valueOf_fOne] at hcmp
  by_cases hwrap : fle fOne (fadd tr.ophase tr.oinc) = true
  · obtain ⟨hfin, hv⟩ := valueOf_nextPhase_of_wrap h hwrap
    have hone := hcmp.1 hwrap
    exact ⟨hfin, by linarith, by linarith⟩
  · rw [nextPhase, if_neg hwrap]
    exact ⟨hsum, hlo, not_le.1 fun hle => hwrap (hcmp.2 hle)⟩

/-! ## The table position -/

/-- Where in its table a track's next tick reads: tpos of R141. -/
abbrev tablePosition (tr : Track) : F32 := fmul (nextPhase tr.ophase tr.oinc) f2048

/-- The position is 2048 times the phase, exactly (R141, R148). -/
theorem tablePosition_range {tr : Track} (h : tr.OscLegal) : IsFinite (tablePosition tr) ∧
    valueOf (tablePosition tr) = valueOf (nextPhase tr.ophase tr.oinc) * 2048 ∧
    0 ≤ valueOf (tablePosition tr) ∧ valueOf (tablePosition tr) < 2048 := by
  obtain ⟨hfin, hlo, hhi⟩ := nextPhase_range h
  obtain ⟨hpos, hv⟩ := fmul_f2048_exact ⟨hfin, hlo, hhi.le⟩
  exact ⟨hpos, hv, by linarith, by linarith⟩

/-- A position in [0, 2048) stands at a body index, its floor (R141). -/
theorem tableIndex_eq_floor {t : F32} (ht : IsFinite t) (hlo : 0 ≤ valueOf t) (hhi : valueOf t < 2048) :
    tableIndex t = some ⌊valueOf t⌋₊ := by
  have hfloor : ffloor t = some (.ofNat ⌊valueOf t⌋₊) := by
    rw [ffloor_eq_floor ht, ← Int.natCast_floor_eq_floor hlo]
    rfl
  have hlt : ⌊valueOf t⌋₊ < Config.WTLEN := (Nat.floor_lt hlo).2 (by exact_mod_cast hhi)
  simp only [tableIndex, hfloor, if_pos hlt]

/-- The fraction of a position is exact and in [0, 1) (R141, R148). -/
theorem tableFraction_exact {t : F32} {i : Nat} (ht : IsFinite t) (hi : i < 2048) (hle : (i : ℚ) ≤ valueOf t)
    (hlt : valueOf t < i + 1) : IsFinite (fsub t (i2f i)) ∧ (i : ℚ) + valueOf (fsub t (i2f i)) = valueOf t ∧
      0 ≤ valueOf (fsub t (i2f i)) ∧ valueOf (fsub t (i2f i)) < 1 := by
  have hint : (i : Int).natAbs ≤ 2 ^ 24 := by omega
  have hbound : (i : ℚ) < 2048 := by exact_mod_cast hi
  obtain ⟨hfin, hv⟩ := fsub_nat_exact ht (isFinite_i2f hint) (by linarith) (by exact_mod_cast valueOf_i2f hint) hle
  exact ⟨hfin, by linarith, by linarith, by linarith⟩

/-- What R148 gives of a tick: it reads the table at an index below 2048 and an exact fraction. -/
theorem tableRead_of_oscLegal {tr : Track} (h : tr.OscLegal) :
    ∃ i, tableIndex (tablePosition tr) = some i ∧ i < 2048 ∧ IsFinite (fsub (tablePosition tr) (i2f i)) ∧
      (i : ℚ) + valueOf (fsub (tablePosition tr) (i2f i)) = valueOf (nextPhase tr.ophase tr.oinc) * 2048 ∧
      0 ≤ valueOf (fsub (tablePosition tr) (i2f i)) ∧ valueOf (fsub (tablePosition tr) (i2f i)) < 1 := by
  obtain ⟨hpos, hv, hlo, hhi⟩ := tablePosition_range h
  have hlt : ⌊valueOf (tablePosition tr)⌋₊ < 2048 := (Nat.floor_lt hlo).2 (by exact_mod_cast hhi)
  obtain ⟨hfin, hsum, hxlo, hxhi⟩ := tableFraction_exact hpos hlt (Nat.floor_le hlo) (Nat.lt_floor_add_one _)
  exact ⟨_, tableIndex_eq_floor hpos hlo hhi, hlt, hfin, hsum.trans hv, hxlo, hxhi⟩

/-! ## The changes of a track -/

theorem unitChange_oscLegal {tr tr' : Track} (hchange : UnitChange tr tr') (h : tr.OscLegal) : tr'.OscLegal := by
  cases hchange with
  | tune f owti =>
    obtain ⟨-, -, -, hphase⟩ := h
    have hfreq : Between 0 (clampf f 0 f22050) f22050 := clampf_between f (by decide)
    exact ⟨hfreq, rfl, increment_between hfreq, hphase⟩
  | phase =>
    have hnext := (isPhase_iff _).2 (nextPhase_range h)
    obtain ⟨hfreq, hquot, hinc, -⟩ := h
    exact ⟨hfreq, hquot, hinc, hnext⟩
  | voice | rewind | sample | stage | highPass | delay | bus | boundary | countDown => exact h

/-- CSRW writes no register of the oscillator (R28). -/
theorem write_oscLegal {r : TrackReg} {v : Word} {tr tr' : Track} {hit : Bool} (hw : r.write v tr = some (tr', hit))
    (h : tr.OscLegal) : tr'.OscLegal := by
  cases r <;> cases hw <;> exact h

/-- Frequency, increment and phase at +0.0, as INIT leaves them, are legal (R294). -/
theorem oscLegal_of_zero {tr : Track} (hfreq : tr.ofreq = 0) (hinc : tr.oinc = 0) (hphase : tr.ophase = 0) : tr.OscLegal := by
  rw [Track.OscLegal, hfreq, hinc, hphase]
  decide

theorem trackChange_oscLegal (tr tr' : Track) (hchange : TrackChange tr tr') (h : tr.OscLegal) : tr'.OscLegal := by
  cases hchange with
  | unit hunit => exact unitChange_oscLegal hunit h
  | write r v hit hw => exact write_oscLegal hw h
  | init => exact oscLegal_of_zero rfl rfl rfl
  | reset => exact reset_oscLegal
  | buffer | cutoff | retime | muteReverb => exact h

end Sys2Proof.Laws
end

section
/-! PROOF. The oscillator invariant (O55). -/

namespace Sys2Proof.Proofs

open Sys2Proof Sys2Proof.Machine Sys2Proof.Laws

/-- Settles O55: each change a step makes to a track keeps the ranges; under them the wrap, the scaling by 2048 and the fraction are
exact, so the floor is a body index. -/
theorem oscillatorInvariant : Obligations.OscillatorInvariant := by
  refine ⟨fun k => ?_, fun s u hlegal hstep k => (step_tracksChange hstep).induct trackChange_oscLegal (hlegal k),
    fun tr h => ?_⟩
  · rw [reset_track]
    exact reset_oscLegal
  · obtain ⟨hsum, -, hsumhi⟩ := phaseSum_range h
    obtain ⟨-, -, hlo, hhi⟩ := tablePosition_range h
    obtain ⟨i, hindex, hi, -, -, hxlo, hxhi⟩ := tableRead_of_oscLegal h
    refine ⟨(fle_iff_valueOf hsum (by decide)).2 (by rwa [valueOf_fOneHalf]), fun hwrap => (valueOf_nextPhase_of_wrap h hwrap).2,
      hlo, hhi, i, hindex, hi, hxlo, hxhi, fun j hj => ⟨elementOf_wtAddr tr.owti (by omega), ?_⟩⟩
    simp only [wtAddr, Config.WTSTRIDE]
    omega

end Sys2Proof.Proofs
end

section
/-! SUPPORT. OSC.TICK and the cubic at fraction 0 (R141, R142). -/

namespace Sys2Proof.Laws

open Sys2Proof Sys2Proof.Machine

/-- A change of one track changes nothing else. -/
theorem keeps_setTrack (s : State) (k : Fin Config.NTRK) (tr : Track) : Keeps s (s.setTrack k tr) [] [k] [] :=
  keeps_setTrack_flagIf s k tr false .clamp

/-- The samples a tick reads, as elements of WT: table n begins at n · 4096 (R64, R141). -/
theorem tableSample_eq (s : State) (n : BitVec 7) (i : Nat) (x : F32) :
    tableSample s n i x = catmullRom (s.memRead .wt (n.toNat * 4096 + i)) (s.memRead .wt (n.toNat * 4096 + i + 1))
      (s.memRead .wt (n.toNat * 4096 + i + 2)) (s.memRead .wt (n.toNat * 4096 + i + 3)) x := by
  simp only [tableSample, wtAddr, Config.WTSTRIDE, State.memRead, Nat.add_assoc]

/-- The cubic by its coefficients and Horner steps (R142). -/
theorem catmullRom_eq {y0 y1 y2 y3 c1 c2 c3 : F32} (x : F32) (h1 : c1 = fmul fHalf (fsub y2 y0))
    (h2 : c2 = fsub (fadd (fsub y0 (fmul fTwoHalf y1)) (fmul fTwo y2)) (fmul fHalf y3))
    (h3 : c3 = fadd (fmul fHalf (fsub y3 y0)) (fmul fOneHalf (fsub y1 y2))) :
    catmullRom y0 y1 y2 y3 x = fadd (fmul (fadd (fmul (fadd (fmul c3 x) c2) x) c1) x) y1 := by
  subst h1 h2 h3
  rfl

/-- OSC.TICK in DIRECT mode, with its position at body index i (R141). -/
theorem exec_oscTick {k : Fin Config.NTRK} {s : State} {i : Nat} (rd : Reg) (hdirect : s.status.active = false)
    (hindex : tableIndex (tablePosition (s.track k)) = some i) :
    exec (.oscTick rd (trackField k)) s =
      .next ((s.setTrack k { s.track k with ophase := nextPhase (s.track k).ophase (s.track k).oinc }).setX rd
        (tableSample s (s.track k).owti i (fsub (tablePosition (s.track k)) (i2f i)))) := by
  simp only [exec, execOscTick, onTrack_field, directOnly_of_direct _ _ hdirect, oscTick, hindex, resultToX]

/-- At a zero x one Horner step adds a zero to the next coefficient. -/
theorem horner_zero_exact {a c x : F32} (hx : isZero x = true) (ha : IsFinite a) (hc : IsFinite c) :
    IsFinite (fadd (fmul a x) c) ∧ valueOf (fadd (fmul a x) c) = valueOf c :=
  fadd_zero_left_exact (isZero_fmul_zero_right ha hx) hc

/-- At a zero x the three Horner steps of R142 leave the last coefficient, unless that is a zero, whose sign they may change. -/
theorem horner_zero {c1 c2 c3 y x : F32} (hx : isZero x = true) (h1 : IsFinite c1) (h2 : IsFinite c2) (h3 : IsFinite c3)
    (hy : IsFinite y) (hne : isZero y = false) :
    fadd (fmul (fadd (fmul (fadd (fmul c3 x) c2) x) c1) x) y = y := by
  obtain ⟨hinner, -⟩ := horner_zero_exact hx h3 h2
  obtain ⟨hmiddle, -⟩ := horner_zero_exact hx hinner h1
  obtain ⟨-, hv⟩ := horner_zero_exact hx hmiddle hy
  exact eq_of_valueOf_eq hne hv

end Sys2Proof.Laws
end

section
/-! PROOF. OSC.TICK (O28). -/

namespace Sys2Proof.Proofs

open Sys2Proof Sys2Proof.Machine Sys2Proof.Laws

/-- Settles O28: under the invariant the position stands at a body index, so the tick answers the cubic of the four samples
there. -/
theorem oscTickInterpolates : Obligations.OscTickInterpolates := by
  intro s k rd hdirect hlegal
  obtain ⟨i, hindex, hi, hfin, hsum, hlo, hhi⟩ := tableRead_of_oscLegal hlegal
  refine ⟨_, i, _, _, _, _, _, _, _, _, exec_oscTick rd hdirect hindex, ?_, hi, hfin, ?_, hlo, hhi, rfl, rfl, rfl, rfl, rfl, rfl,
    rfl, ?_⟩
  · rw [setX_track, track_setTrack_same]
    rfl
  · rw [setX_track, track_setTrack_same]
    exact hsum
  · rw [getX_setX_same, tableSample_eq, catmullRom_eq _ rfl rfl rfl, setX_track, track_setTrack_same]
    exact ⟨rfl, fun hzero => horner_zero ((valueOf_eq_zero_iff _).1 hzero), rfl, rfl, keeps_setX (keeps_setTrack ..) rd _⟩

end Sys2Proof.Proofs
end

section
/-! SUPPORT. The seek of OSC.SETF: where its two loops end, and with FT increasing that this is the largest table whose pitch is at
most the frequency (R140, R147). -/

namespace Sys2Proof.Laws

open Sys2Proof Sys2Proof.Machine

/-! ## Where the loops end -/

/-- The two loops of R140, started at table i, may end at table n. -/
def SeekEnds (s : State) (f : F32) (i n : BitVec 7) : Prop :=
  ∃ top, i.toNat ≤ top ∧ top ≤ 127 ∧ (∀ m, i.toNat < m → m ≤ top → fle (s.ft m) f = true) ∧
    (top = 127 ∨ fle (s.ft (top + 1)) f = false) ∧ n.toNat ≤ top ∧
    (∀ m, n.toNat < m → m ≤ top → flt f (s.ft m) = true) ∧ (n = 0 ∨ flt f (s.ft n.toNat) = false)

theorem seekTable_ends (s : State) (f : F32) (i : BitVec 7) : SeekEnds s f i (seekTable s f i) := by
  have hi := i.isLt
  obtain ⟨hstart, htop, hup, hstop⟩ := seekUp_spec s f 127 i.toNat (by omega) (by omega)
  obtain ⟨hle, hdown, hend⟩ := seekDown_spec s f (seekUp s f 127 i.toNat)
  have hresult : (seekTable s f i).toNat = seekDown s f (seekUp s f 127 i.toNat) := by
    rw [seekTable, BitVec.toNat_ofNat, Nat.mod_eq_of_lt (by omega)]
  rw [← hresult] at hle hdown hend
  exact ⟨_, hstart, htop, hup, hstop, hle, hdown, hend.imp_left BitVec.eq_of_toNat_eq⟩

/-! ## An increasing table -/

theorem isNaN_ft {s : State} (h : s.TableIncreasing) {m : Nat} (hm : m ≤ 127) : isNaN (s.ft m) = false :=
  h.1 ⟨m, by omega⟩

theorem forder_ft_mono {s : State} (h : s.TableIncreasing) {m n : Nat} (hmn : m ≤ n) (hn : n ≤ 127) :
    forder (s.ft m) ≤ forder (s.ft n) := by
  induction n, hmn using Nat.le_induction with
  | base => exact le_rfl
  | succ n hmn ih =>
    obtain ⟨-, -, hlt⟩ := (flt_iff _ _).1 (h.2 ⟨n, by omega⟩)
    exact (ih (by omega)).trans hlt.le

/-- A table at or below one whose pitch is at most f has its pitch at most f. -/
theorem fle_ft_of_le {s : State} {f : F32} (h : s.TableIncreasing) {m n : Nat} (hmn : m ≤ n) (hn : n ≤ 127)
    (hle : fle (s.ft n) f = true) : fle (s.ft m) f = true := by
  obtain ⟨-, hf, hord⟩ := (fle_iff _ _).1 hle
  exact (fle_iff _ _).2 ⟨isNaN_ft h (hmn.trans hn), hf, (forder_ft_mono h hmn hn).trans hord⟩

theorem fle_trans {a b c : F32} (hab : fle a b = true) (hbc : fle b c = true) : fle a c = true := by
  obtain ⟨ha, -, hab⟩ := (fle_iff a b).1 hab
  obtain ⟨-, hc, hbc⟩ := (fle_iff b c).1 hbc
  exact (fle_iff a c).2 ⟨ha, hc, hab.trans hbc⟩

/-- No table above the end has a pitch at most f: the downward loop passed it, or the upward loop stopped below it. -/
theorem SeekEnds.le_of_fle {s : State} {f : F32} {i n : BitVec 7} (hseek : SeekEnds s f i n) (h : s.TableIncreasing)
    {m : Nat} (hm : m ≤ 127) (hle : fle (s.ft m) f = true) : m ≤ n.toNat := by
  obtain ⟨top, -, -, -, hstop, -, hdown, -⟩ := hseek
  by_contra hnm
  rcases Nat.lt_or_ge top m with habove | hpassed
  · have hnext : fle (s.ft (top + 1)) f = true := fle_ft_of_le h habove hm hle
    rcases hstop with rfl | hstop
    · omega
    · rw [hstop] at hnext
      cases hnext
  · obtain ⟨-, -, hlt⟩ := (flt_iff _ _).1 (hdown m (by omega) hpassed)
    obtain ⟨-, -, hge⟩ := (fle_iff _ _).1 hle
    omega

/-- The end has a pitch at most f, or it is 0 and no table has one. -/
theorem SeekEnds.fle_or_none {s : State} {f : F32} {i n : BitVec 7} (hseek : SeekEnds s f i n) (h : s.TableIncreasing)
    (hf : isNaN f = false) : fle (s.ft n.toNat) f = true ∨ n = 0 ∧ ∀ m : Fin 128, fle (s.ft m.val) f = false := by
  obtain ⟨top, -, htop, -, -, hn, -, hend⟩ := hseek
  have hnot := fle_eq_not_flt (isNaN_ft h (hn.trans htop)) hf
  rcases hend with rfl | hend
  · refine or_iff_not_imp_left.2 fun hzero => ⟨rfl, fun m => ?_⟩
    rw [← Bool.not_eq_true]
    exact fun hle => hzero (fle_ft_of_le h (Nat.zero_le m) (Nat.le_of_lt_succ m.isLt) hle)
  · exact .inl (by rw [hnot, hend]; rfl)

/-- A higher frequency ends at no lower table, wherever the two seeks started (R147). -/
theorem SeekEnds.mono {s : State} {f g : F32} {i j n p : BitVec 7} (hf : SeekEnds s f i n) (hg : SeekEnds s g j p)
    (h : s.TableIncreasing) (hfg : fle f g = true) : n.toNat ≤ p.toNat := by
  obtain ⟨hnan, -, -⟩ := (fle_iff f g).1 hfg
  rcases hf.fle_or_none h hnan with hle | ⟨rfl, -⟩
  · obtain ⟨top, -, htop, -, -, hn, -⟩ := hf
    exact hg.le_of_fle h (hn.trans htop) (fle_trans hle hfg)
  · exact Nat.zero_le _

/-! ## OSC.SETF -/

theorem exec_oscSetf (k : Fin Config.NTRK) (rs : Reg) {s : State} (h : s.status.active = false) :
    exec (.oscSetf (trackField k) rs) s = .next (oscSetf k (s.getX rs) s) := by
  simp only [exec, execOscSetf, onTrack_field, directOnly_of_direct _ _ h]

theorem oscSetf_track (k : Fin Config.NTRK) (f : F32) (s : State) : (oscSetf k f s).track k =
    { s.track k with ofreq := clampf f 0 f22050, oinc := fdiv (clampf f 0 f22050) f44100,
                     owti := seekTable s (clampf f 0 f22050) (s.track k).owti } := by
  rw [oscSetf, flagIf_track, track_setTrack_same]

/-- OSC.SETF leaves a frequency that is no NaN, and the table its seek ends at. -/
theorem seekEnds_of_exec {k : Fin Config.NTRK} {rs : Reg} {s u : State} (hdirect : s.status.active = false)
    (h : exec (.oscSetf (trackField k) rs) s = .next u) : isNaN (u.track k).ofreq = false ∧
      SeekEnds s (u.track k).ofreq (s.track k).owti (u.track k).owti := by
  rw [exec_oscSetf k rs hdirect] at h
  cases h
  rw [oscSetf_track]
  obtain ⟨hnan, -, -⟩ := (fle_iff _ f22050).1 (clampf_between (s.getX rs) (lo := 0) (hi := f22050) (by decide)).2
  exact ⟨hnan, seekTable_ends s _ _⟩

end Sys2Proof.Laws
end

section
/-! PROOF. OSC.SETF (O26) and its seek (O27). -/

namespace Sys2Proof.Proofs

open Sys2Proof Sys2Proof.Machine Sys2Proof.Laws

/-- Settles O26: in DIRECT mode the command is its unit operation, whose flag is that of the clamp. -/
theorem setfSetsFrequency : Obligations.SetfSetsFrequency := fun s k rs hdirect =>
  ⟨_, exec_oscSetf k rs hdirect, oscSetf_track k _ s, errClamped_eq s k _ _, keeps_setTrack_flagIf ..⟩

/-- Settles O27: where the two loops end, no table above has a pitch at most the frequency when the pitches increase. -/
theorem seekFindsLargestTable : Obligations.SeekFindsLargestTable := by
  refine ⟨fun s k rs u hdirect htable hexec => ?_, fun s k j rs rt u v hdirect htable hu hv hle => ?_,
    fun s k rs u hdirect hexec => (seekEnds_of_exec hdirect hexec).2⟩
  · obtain ⟨hnan, hseek⟩ := seekEnds_of_exec hdirect hexec
    exact ⟨fun m => hseek.le_of_fle htable (Nat.le_of_lt_succ m.isLt), hseek.fle_or_none htable hnan⟩
  · obtain ⟨-, hseek⟩ := seekEnds_of_exec hdirect hu
    obtain ⟨-, hseek'⟩ := seekEnds_of_exec hdirect hv
    exact hseek.mono hseek' htable hle

end Sys2Proof.Proofs
end

section
/-! SUPPORT. The sampler's commands (R143 to R145). -/

namespace Sys2Proof.Laws

open Sys2Proof Sys2Proof.Machine

/-- The base SMP.SETS takes is cut to the end of SM (R143). -/
theorem toNat_fitBuffer_base (base len : Word) : (fitBuffer base len).1.toNat = min base.toNat 262144 := by
  unfold fitBuffer
  split
  · case isTrue h => exact (Nat.min_eq_right h.le).symm
  · case isFalse h => split <;> exact (Nat.min_eq_left (not_lt.1 h)).symm

/-- The length is cut to what SM has left from the base on (R143). -/
theorem toNat_fitBuffer_len (base len : Word) :
    (fitBuffer base len).2.toNat = min len.toNat (262144 - (fitBuffer base len).1.toNat) := by
  unfold fitBuffer
  split
  · exact (Nat.min_zero _).symm
  · split
    · case isTrue h =>
      rw [BitVec.toNat_ofNat, Nat.mod_eq_of_lt (by omega), Nat.min_eq_right h.le]
    · case isFalse h => exact (Nat.min_eq_left (not_lt.1 h)).symm

/-- The buffer is cut exactly when it does not end inside SM (R143). -/
theorem bufferCut_eq (base len : Word) :
    (decide (Config.SMEMLEN < base.toNat) || decide (Config.SMEMLEN - base.toNat < len.toNat)) =
      (decide (262144 < base.toNat) || decide (262144 < base.toNat + len.toNat)) := by
  rw [Bool.eq_iff_iff]
  simp only [Bool.or_eq_true, decide_eq_true_eq, Config.SMEMLEN]
  omega

theorem exec_smpSets (s : State) (k : Fin Config.NTRK) (rb rl : Reg) :
    exec (.smpSets (trackField k) rb rl) s = .next (smpSets k (s.getX rb) (s.getX rl) s) := by
  simp only [exec, execSmpSets, onTrack_field]

theorem smpSets_track (k : Fin Config.NTRK) (base len : Word) (s : State) : (smpSets k base len s).track k =
    { s.track k with sbase := (fitBuffer base len).1, slen := (fitBuffer base len).2, spos := 0 } := by
  rw [smpSets, flagIf_track, track_setTrack_same]

theorem exec_smpTrig (k : Fin Config.NTRK) {s : State} (h : s.status.active = false) :
    exec (.smpTrig (trackField k)) s = .next (smpTrig k s) := by
  simp only [exec, execSmpTrig, onTrack_field, directOnly_of_direct _ _ h]

/-- SMP.TICK before the end of its buffer (R145). -/
theorem exec_smpTick_sample {k : Fin Config.NTRK} {s : State} (rd : Reg) (hdirect : s.status.active = false)
    (hlegal : (s.track k).SamplerLegal) (hlt : (s.track k).spos.toNat < (s.track k).slen.toNat) :
    exec (.smpTick rd (trackField k)) s = .next ((s.setTrack k { s.track k with spos := (s.track k).spos + 1 }).setX rd
      (s.memRead .sm ((s.track k).sbase.toNat + (s.track k).spos.toNat))) := by
  obtain ⟨hend, -⟩ := hlegal
  have hinside : (s.track k).sbase.toNat + (s.track k).spos.toNat < Config.SMEMLEN := by omega
  simp only [exec, execSmpTick, onTrack_field, directOnly_of_direct _ _ hdirect, smpTick, if_pos hlt, if_pos hinside, resultToX,
    State.memRead]

/-- SMP.TICK from the end of its buffer on (R145). -/
theorem exec_smpTick_silence {k : Fin Config.NTRK} {s : State} (rd : Reg) (hdirect : s.status.active = false)
    (hge : (s.track k).slen.toNat ≤ (s.track k).spos.toNat) :
    exec (.smpTick rd (trackField k)) s = .next (s.setX rd 0) := by
  simp only [exec, execSmpTick, onTrack_field, directOnly_of_direct _ _ hdirect, smpTick, if_neg (not_lt.2 hge), resultToX]

end Sys2Proof.Laws
end

section
/-! PROOF. SMP.SETS (O29), SMP.TICK and SMP.TRIG (O30). -/

namespace Sys2Proof.Proofs

open Sys2Proof Sys2Proof.Machine Sys2Proof.Laws

/-- Settles O29: the buffer is the one `fitBuffer` cuts, and CLAMP says that it did. -/
theorem setsTakesBuffer : Obligations.SetsTakesBuffer := by
  refine fun s k rb rl => ⟨_, exec_smpSets s k rb rl, ?_⟩
  rw [smpSets_track, ← bufferCut_eq]
  exact ⟨toNat_fitBuffer_base .., toNat_fitBuffer_len .., rfl, errClamped_eq s k _ _, keeps_setTrack_flagIf ..⟩

/-- Settles O30: a legal buffer lies inside SM, so a tick before its end reads a sample; the other cases touch no memory. -/
theorem samplerPlaysOnce : Obligations.SamplerPlaysOnce := by
  refine fun s k rd hdirect => ⟨fun hlegal hlt => ?_, fun hge => ?_, ?_⟩
  · refine ⟨_, exec_smpTick_sample rd hdirect hlegal hlt, getX_setX_same .., ?_, rfl, keeps_setX (keeps_setTrack ..) rd _⟩
    rw [setX_track, track_setTrack_same]
  · exact ⟨_, exec_smpTick_silence rd hdirect hge, getX_setX_same .., onlyX_setX s rd 0⟩
  · exact ⟨_, exec_smpTrig k hdirect, track_setTrack_same .., rfl, keeps_setTrack ..⟩

end Sys2Proof.Proofs
end

section
/-! SUPPORT. The all-pass stage (R161, R162): frames of composed changes, where its slots lie, and what one tick does. -/

namespace Sys2Proof.Laws

open Sys2Proof Sys2Proof.Machine

/-! ## Frames -/

theorem keeps_setWordAt (s : State) (sp : Space) (a : Nat) (v : Word) : Keeps s (s.setWordAt sp a v) [] [] [wordArea sp a] :=
  keeps_withMem fun _ hb => byte_setWord_ne _ v (hb _ List.mem_cons_self)

/-- A frame after one more track was replaced. -/
theorem keeps_setTrack_of_keeps {s u : State} {regs : List Reg} {tracks : List (Fin Config.NTRK)} {stored : List (Nat × Nat)}
    (h : Keeps s u regs tracks stored) (k : Fin Config.NTRK) (tr : Track) :
    Keeps s (u.setTrack k tr) regs (k :: tracks) stored where
  regs := h.regs
  tracks j hj := by
    rw [List.mem_cons, not_or] at hj
    obtain ⟨hne, hrest⟩ := hj
    rw [track_setTrack_ne u tr hne, h.tracks j hrest]
  bytes := h.bytes
  rest := h.rest

theorem status_of_keeps {s u : State} {regs : List Reg} {tracks : List (Fin Config.NTRK)} {stored : List (Nat × Nat)}
    (h : Keeps s u regs tracks stored) : u.status = s.status := by
  have hstatus := congrArg State.status h.rest
  exact hstatus

/-- The bytes of an element lie outside the area of any other word element (R60). -/
theorem outside_wordArea {sp sp' : Space} {a b j : Nat} (ha : ElementOf sp a) (hw : sp.width = 4) (hb : ElementOf sp' b)
    (hj : j < sp'.width) (hne : sp' ≠ sp ∨ b ≠ a) :
    sp'.cell b + j < (wordArea sp a).1 ∨ (wordArea sp a).1 + (wordArea sp a).2 ≤ sp'.cell b + j := by
  by_contra hinside
  simp only [wordArea, not_or, not_lt, not_le] at hinside
  obtain ⟨hlo, hhi⟩ := hinside
  obtain ⟨hsp, hab, -⟩ := cell_inj (sp := sp) (sp' := sp') (j := sp'.cell b + j - sp.cell a) (j' := j) (elementOf_lt ha)
    (elementOf_lt hb) (by omega) hj (by omega)
  exact hne.elim (fun h => h hsp.symm) fun h => h hab.symm

/-- A command that stores one word leaves every other element of every space. -/
theorem memRead_of_keeps_wordArea {s u : State} {regs : List Reg} {tracks : List (Fin Config.NTRK)} {sp sp' : Space} {a b : Nat}
    (h : Keeps s u regs tracks [wordArea sp a]) (ha : ElementOf sp a) (hw : sp.width = 4) (hb : ElementOf sp' b)
    (hne : sp' ≠ sp ∨ b ≠ a) : u.memRead sp' b = s.memRead sp' b :=
  memRead_congr fun _ hj => h.bytes _ <| List.forall_mem_singleton.2 (outside_wordArea ha hw hb hj hne)

/-! ## APF.PROC -/

theorem toNat_nextIndex (v : Fin Config.NSTAGE) (n : Nat) :
    (BitVec.ofNat 10 ((n + 1) % Config.REVLEN v)).toNat = (n + 1) % Config.REVLEN v := by
  have hlt := Nat.mod_lt (n + 1) (revlen_pos v)
  have hle := revlen_le v
  rw [BitVec.toNat_ofNat, Nat.mod_eq_of_lt (by omega)]

/-- A stage whose index is inside its buffer answers (R160). -/
theorem apfProc_of_index {k : Fin Config.NTRK} {v : Fin Config.NSTAGE} {s : State}
    (h : (s.track k).apidx[v.val].toNat < Config.REVLEN v) (x : F32) : ∃ y u, apfProc k v x s = .ok (y, u) := by
  unfold apfProc
  dsimp only
  rw [if_pos h]
  exact ⟨_, _, rfl⟩

/-- APF.PROC in DIRECT mode, when its stage answers (R161). -/
theorem exec_apfProc {k : Fin Config.NTRK} {v : Fin Config.NSTAGE} {s u : State} {rs : Reg} {y : F32} (rd : Reg)
    (hdirect : s.status.active = false) (h : apfProc k v (s.getX rs) s = .ok (y, u)) :
    exec (.apfProc rd (trackField k) (stageField v) rs) s = .next (u.setX rd y) := by
  simp only [exec, execApfProc, onTrack_field, onStage_field, directOnly_of_direct _ _ hdirect, h, resultToX]

end Sys2Proof.Laws
end

section
/-! PROOF. APF.PROC on one slot (O32). -/

namespace Sys2Proof.Proofs

open Sys2Proof Sys2Proof.Machine Sys2Proof.Laws

/-- Settles O32: a tick is one store to the slot at the index, one new index and one result register. -/
theorem apfProcFiltersOneSlot : Obligations.ApfProcFiltersOneSlot := by
  intro s k v rd rs hdirect hindex
  obtain ⟨y, u, h⟩ := apfProc_of_index hindex (s.getX rs)
  refine ⟨_, exec_apfProc rd hdirect h, ?_⟩
  obtain ⟨-, rfl, rfl⟩ := apfProc_ok h
  refine ⟨getX_setX_same .., wordAt_setWordAt_same .., ?_, fun w hw => ?_, ?_, rfl,
    keeps_setX (keeps_setTrack_of_keeps (keeps_setWordAt ..) k _) rd _⟩
  · rw [setX_track, track_setTrack_same, setApidx_same, toNat_nextIndex]
  · rw [setX_track, track_setTrack_same, setApidx_ne _ _ hw]
  · rw [setX_track, track_setTrack_same]
    rfl

end Sys2Proof.Proofs
end

section
/-! PROOF. A pass of zero input through an all-pass stage (O33). -/

namespace Sys2Proof.Laws

open Sys2Proof Sys2Proof.Machine

theorem runCommands_cons {i : Instr} {is : List Instr} {s u : State} (h : exec i s = .next u) :
    runCommands (i :: is) s = runCommands is u := by simp only [runCommands, h]

/-- Commands that answer a next state do so one after another. -/
theorem exec_of_runCommands_cons {i : Instr} {is : List Instr} {s u : State} (h : runCommands (i :: is) s = .next u) :
    ∃ w, exec i s = .next w ∧ runCommands is w = .next u := by
  cases hexec : exec i s with
  | next w => exact ⟨w, rfl, (runCommands_cons hexec).symm.trans h⟩
  | fault e | refused r =>
    simp only [runCommands, hexec] at h
    cases h

theorem runCommands_append {is : List Instr} {s u : State} (js : List Instr) (h : runCommands is s = .next u) :
    runCommands (is ++ js) s = runCommands js u := by
  induction is generalizing s with
  | nil => cases h; rfl
  | cons i is ih =>
    obtain ⟨w, hexec, hrest⟩ := exec_of_runCommands_cons h
    rw [List.cons_append, runCommands_cons hexec, ih hrest]

/-- A run of one command repeated, and the command once more. -/
theorem runCommands_replicate_succ {i : Instr} {m : Nat} {s u w : State} (h : runCommands (List.replicate m i) s = .next u)
    (hlast : exec i u = .next w) : runCommands (List.replicate (m + 1) i) s = .next w := by
  rw [List.replicate_succ', runCommands_append _ h, runCommands_cons hlast]
  rfl

/-! ## The slots of a pass -/

/-- The slot of stage v that the i-th tick from state s on works on (R161). -/
def passSlot (s : State) (k : Fin Config.NTRK) (v : Fin Config.NSTAGE) (i : Nat) : Nat :=
  stageAddr k v (((s.track k).apidx[v.val].toNat + i) % Config.REVLEN v)

theorem elementOf_passSlot (s : State) (k : Fin Config.NTRK) (v : Fin Config.NSTAGE) (i : Nat) :
    ElementOf .ap (passSlot s k v i) := elementOf_stageAddr k (Nat.mod_lt _ (revlen_pos v))

/-- Within one buffer length a pass meets no slot twice. -/
theorem passSlot_inj {s : State} {k : Fin Config.NTRK} {v : Fin Config.NSTAGE} {i j : Nat} (hi : i < Config.REVLEN v)
    (hj : j < Config.REVLEN v) (h : passSlot s k v i = passSlot s k v j) : i = j :=
  (Nat.ModEq.add_left_cancel' _ (Nat.add_left_cancel h)).eq_of_lt_of_lt hi hj

/-! ## The state after some ticks -/

/-- State u is as m ticks with zero input leave it after state s: the slots the pass has met are halved, the others are as they were
(R163). -/
structure Drained (s u : State) (k : Fin Config.NTRK) (v : Fin Config.NSTAGE) (rd rs : Reg) (m : Nat) : Prop where
  direct : u.status.active = false
  input : u.getX rs = 0
  index : (u.track k).apidx[v.val].toNat = ((s.track k).apidx[v.val].toNat + m) % Config.REVLEN v
  output : 0 < m → u.getX rd = fsub (s.memRead .ap (passSlot s k v (m - 1))) 0
  slots : ∀ i < Config.REVLEN v, u.memRead .ap (passSlot s k v i) =
    if i < m then fadd 0 (fmul (s.memRead .ap (passSlot s k v i)) fHalf) else s.memRead .ap (passSlot s k v i)

theorem drained_zero {s : State} {k : Fin Config.NTRK} {v : Fin Config.NSTAGE} {rs : Reg} (rd : Reg)
    (hdirect : s.status.active = false) (hindex : (s.track k).apidx[v.val].toNat < Config.REVLEN v) (hinput : s.getX rs = 0) :
    Drained s s k v rd rs 0 where
  direct := hdirect
  input := hinput
  index := (Nat.mod_eq_of_lt hindex).symm
  output h := absurd h (Nat.lt_irrefl 0)
  slots _ _ := (if_neg (Nat.not_lt_zero _)).symm

/-- One more tick halves the next slot, which the pass has not met yet. -/
theorem Drained.tick {s u : State} {k : Fin Config.NTRK} {v : Fin Config.NSTAGE} {rd rs : Reg} {m : Nat}
    (h : Drained s u k v rd rs m) (hne : rd ≠ rs) (hm : m < Config.REVLEN v) :
    ∃ w, exec (.apfProc rd (trackField k) (stageField v) rs) u = .next w ∧ Drained s w k v rd rs (m + 1) := by
  have hlt : (u.track k).apidx[v.val].toNat < Config.REVLEN v := by
    rw [h.index]
    exact Nat.mod_lt _ (revlen_pos v)
  have hslot : stageAddr k v (u.track k).apidx[v.val].toNat = passSlot s k v m := by rw [h.index, passSlot]
  have hunmet : u.memRead .ap (passSlot s k v m) = s.memRead .ap (passSlot s k v m) :=
    (h.slots m hm).trans (if_neg (Nat.lt_irrefl m))
  obtain ⟨w, hexec, hout, hstored, hnext, -, -, -, hkeeps⟩ := Proofs.apfProcFiltersOneSlot u k v rd rs h.direct hlt
  rw [hslot, hunmet, h.input] at hout hstored
  rw [hslot] at hkeeps
  refine ⟨w, hexec, ?_, ?_, ?_, fun _ => hout, fun i hi => ?_⟩
  · rw [status_of_keeps hkeeps, h.direct]
  · rw [hkeeps.regs rs (by simpa using hne.symm), h.input]
  · rw [hnext, h.index, Nat.mod_add_mod, Nat.add_assoc]
  · rcases eq_or_ne i m with rfl | him
    · rw [if_pos (Nat.lt_succ_self i), hstored]
    · have hother : passSlot s k v i ≠ passSlot s k v m := fun e => him (passSlot_inj hi hm e)
      rw [memRead_of_keeps_wordArea hkeeps (elementOf_passSlot ..) rfl (elementOf_passSlot ..) (.inr hother), h.slots i hi]
      exact if_congr (by omega) rfl rfl

/-- A pass of at most one buffer length. -/
theorem exists_drained {s : State} {k : Fin Config.NTRK} {v : Fin Config.NSTAGE} {rd rs : Reg} (h : Drained s s k v rd rs 0)
    (hne : rd ≠ rs) {m : Nat} (hm : m ≤ Config.REVLEN v) :
    ∃ u, runCommands (List.replicate m (.apfProc rd (trackField k) (stageField v) rs)) s = .next u ∧
      Drained s u k v rd rs m := by
  induction m with
  | zero => exact ⟨s, rfl, h⟩
  | succ m ih =>
    obtain ⟨u, hrun, hu⟩ := ih (Nat.le_of_succ_le hm)
    obtain ⟨w, hexec, hw⟩ := hu.tick hne hm
    exact ⟨w, runCommands_replicate_succ hrun hexec, hw⟩

end Sys2Proof.Laws

namespace Sys2Proof.Proofs

open Sys2Proof Sys2Proof.Machine Sys2Proof.Laws

/-- Settles O33, by induction on the number of ticks: a pass of at most one buffer length meets each slot once, so each tick finds
its slot as it was. -/
theorem apfDrainsByHalves : Obligations.ApfDrainsByHalves := by
  intro s k v rd rs m hdirect hlegal hinput hne hm
  obtain ⟨u, hrun, hu⟩ := exists_drained (drained_zero rd hdirect (hlegal v) hinput) hne hm
  exact ⟨u, hrun, hu.index, hu.output, fun i hi => (hu.slots i (hi.trans_le hm)).trans (if_pos hi)⟩

end Sys2Proof.Proofs
end

section
/-! SUPPORT. Muting (R162, R198): which bytes a muted buffer gives its reset contents, and that an element of such bytes is +0.0. -/

namespace Sys2Proof.Laws

open Sys2Proof Sys2Proof.Machine

/-- The bytes of a stage's buffer (first byte, length). -/
abbrev stageArea (k : Fin Config.NTRK) (v : Fin Config.NSTAGE) : Nat × Nat :=
  (Space.ap.cell (stageAddr k v 0), 4 * Config.REVLEN v)

/-- An address inside an area. -/
abbrev InArea (w : Nat × Nat) (a : Nat) : Prop := w.1 ≤ a ∧ a < w.1 + w.2

/-- The addresses outside an area, as `Keeps` writes them. -/
theorem not_inArea_iff {w : Nat × Nat} {a : Nat} : ¬InArea w a ↔ a < w.1 ∨ w.1 + w.2 ≤ a := by
  rw [not_and_or, not_le, not_lt]

theorem byte_apfMute (k : Fin Config.NTRK) (v : Fin Config.NSTAGE) (s : State) (a : Nat) :
    (apfMute k v s).mem.byte a = if InArea (stageArea k v) a then unlisted a else s.mem.byte a := byte_restore ..

/-- A byte after the listed stages were muted. -/
theorem byte_foldl_apfMute (k : Fin Config.NTRK) (stages : List (Fin Config.NSTAGE)) (s : State) (a : Nat) :
    (stages.foldl (fun s v => apfMute k v s) s).mem.byte a =
      if ∃ v ∈ stages, InArea (stageArea k v) a then unlisted a else s.mem.byte a := by
  induction stages generalizing s with
  | nil => simp
  | cons v stages ih =>
    rw [List.foldl_cons, ih, byte_apfMute, ← ite_or]
    exact if_congr (by rw [List.exists_mem_cons_iff, or_comm]) rfl rfl

/-- A byte after REV.RST has muted the stages of both chains, which are all there are (R195, R198). -/
theorem byte_muteStages (k : Fin Config.NTRK) (s : State) (a : Nat) :
    (muteStages k s).mem.byte a = if ∃ v, InArea (stageArea k v) a then unlisted a else s.mem.byte a := by
  have hall : ∀ v, v ∈ leftChain ++ rightChain := by decide
  rw [muteStages, byte_foldl_apfMute]
  exact if_congr (exists_congr fun v => and_iff_right (hall v)) rfl rfl

theorem inArea_stageArea (k : Fin Config.NTRK) {v : Fin Config.NSTAGE} {i j : Nat} (hi : i < Config.REVLEN v) (hj : j < 4) :
    InArea (stageArea k v) (Space.ap.cell (stageAddr k v i) + j) := by
  simp only [InArea, Space.cell, Space.width, stageAddr]
  omega

/-- An element of AP whose bytes are its reset contents is +0.0 (R292). -/
theorem memRead_ap_of_unlisted {u : State} {b : Nat} (hb : b < 2 ^ 32)
    (h : ∀ j < 4, u.mem.byte (Space.ap.cell b + j) = unlisted (Space.ap.cell b + j)) : u.memRead .ap b = 0 := by
  have hmuted : (u.zeroWords .ap b 1).memRead .ap b = 0 :=
    wordAt_zeroWords_inside u (.inr (.inr rfl)) hb le_rfl (Nat.lt_succ_self b)
  rw [← hmuted]
  refine memRead_congr fun j hj => ?_
  change j < 4 at hj
  rw [h j hj, zeroWords_mem, byte_restore, if_pos (by omega)]

theorem exec_apfMute {k : Fin Config.NTRK} {v : Fin Config.NSTAGE} {s : State} (h : s.status.active = false) :
    exec (.apfMute (trackField k) (stageField v)) s = .next (apfMute k v s) := by
  simp only [exec, execApfMute, onTrack_field, onStage_field, directOnly_of_direct _ _ h]

theorem exec_revRst (s : State) (k : Fin Config.NTRK) : exec (.revRst (trackField k)) s = .next (revRst k s) := by
  simp only [exec, execRevRst, onTrack_field]

theorem foldl_apfMute_eq (k : Fin Config.NTRK) (stages : List (Fin Config.NSTAGE)) (s : State) :
    stages.foldl (fun s v => apfMute k v s) s = { s with mem := (stages.foldl (fun s v => apfMute k v s) s).mem } := by
  induction stages generalizing s with
  | nil => rfl
  | cons v stages ih => exact ih (apfMute k v s)

/-- Muting all stages of a track touches their buffers only. -/
theorem keeps_muteStages (k : Fin Config.NTRK) (s : State) :
    Keeps s (muteStages k s) [] [] ((List.finRange Config.NSTAGE).map (stageArea k)) := by
  have hmute : muteStages k s = { s with mem := (muteStages k s).mem } := foldl_apfMute_eq k _ s
  rw [hmute]
  refine keeps_withMem fun a ha => ?_
  have houtside : ¬∃ v, InArea (stageArea k v) a := by
    rintro ⟨v, hinside⟩
    exact not_inArea_iff.2 (ha _ (List.mem_map_of_mem (List.mem_finRange v))) hinside
  rw [byte_muteStages, if_neg houtside]

end Sys2Proof.Laws
end

section
/-! PROOF. APF.MUTE and REV.RST (O34). -/

namespace Sys2Proof.Proofs

open Sys2Proof Sys2Proof.Machine Sys2Proof.Laws

/-- Settles O34: the muted bytes are those of the buffers, and reset contents of AP are +0.0. -/
theorem mutingZeroesBuffers : Obligations.MutingZeroesBuffers := by
  refine ⟨fun s k v hdirect => ⟨_, exec_apfMute hdirect, fun i hi => ?_, rfl, ?_⟩,
    fun s k => ⟨_, exec_revRst s k, fun v i hi => ?_, track_setTrack_same .., by simp,
      keeps_setTrack_of_keeps (keeps_muteStages k s) k _⟩⟩
  · refine memRead_ap_of_unlisted (elementOf_lt (elementOf_stageAddr k hi)) fun j hj => ?_
    rw [byte_apfMute, if_pos (inArea_stageArea k hi hj)]
  · exact keeps_withMem fun a ha => (byte_apfMute ..).trans (if_neg (not_inArea_iff.2 (ha _ List.mem_cons_self)))
  · refine memRead_ap_of_unlisted (elementOf_lt (elementOf_stageAddr k hi)) fun j hj => ?_
    exact (byte_muteStages k s _).trans (if_pos ⟨v, inArea_stageArea k hi hj⟩)

end Sys2Proof.Proofs
end

section
/-! PROOF. The high-pass units (O35). -/

namespace Sys2Proof.Laws

open Sys2Proof Sys2Proof.Machine

theorem exec_hpfProc {s : State} (k : Fin Config.NTRK) (v : Fin Config.NHPF) (rd rs : Reg) (h : s.status.active = false) :
    exec (.hpfProc rd (trackField k) (unitField v) rs) s =
      .next ((hpfProc k v (s.getX rs) s).2.setX rd (hpfProc k v (s.getX rs) s).1) := by
  simp only [exec, execHpfProc, onTrack_field, onHighPass_field, directOnly_of_direct _ _ h, resultToX]

theorem hpfProc_track (k : Fin Config.NTRK) (v : Fin Config.NHPF) (x : F32) (s : State) : (hpfProc k v x s).2.track k =
    (s.track k).setHpf v { (s.track k).hpf[v.val] with x1 := x, y1 := highPassOut (s.track k).hpf[v.val] x } :=
  track_setTrack_same ..

theorem exec_hpfSetc (s : State) (k : Fin Config.NTRK) (v : Fin Config.NHPF) (rs : Reg) :
    exec (.hpfSetc (trackField k) (unitField v) rs) s = .next (hpfSetc k v (s.getX rs) s) := by
  simp only [exec, execHpfSetc, onTrack_field, onHighPass_field]

theorem hpfSetc_track (k : Fin Config.NTRK) (v : Fin Config.NHPF) (f : F32) (s : State) : (hpfSetc k v f s).track k =
    (s.track k).setHpf v { (s.track k).hpf[v.val] with cut := clampf f 0 f22050, coef := highPassCoef (clampf f 0 f22050) } := by
  rw [hpfSetc, flagIf_track, track_setTrack_same]

end Sys2Proof.Laws

namespace Sys2Proof.Proofs

open Sys2Proof Sys2Proof.Machine Sys2Proof.Laws

/-- Settles O35: each command replaces one unit of one track; the coefficient's range is that of the clamped cutoff. -/
theorem highPassTickAndCutoff : Obligations.HighPassTickAndCutoff := by
  refine ⟨fun s k v rd rs hdirect => ⟨_, exec_hpfProc k v rd rs hdirect, getX_setX_same .., ?_, fun w hw => ?_, ?_, rfl,
    keeps_setX (keeps_setTrack ..) rd _⟩, fun s k v rs => ?_⟩
  · rw [setX_track, hpfProc_track, setHpf_same, getX_setX_same]
    rfl
  · rw [setX_track, hpfProc_track, setHpf_ne _ _ hw]
  · rw [setX_track, hpfProc_track]
    rfl
  · obtain ⟨hpos, hle⟩ := highPassCoef_range (clampf_between (s.getX rs) (lo := 0) (hi := f22050) (by decide))
    refine ⟨_, exec_hpfSetc s k v rs, ?_⟩
    rw [hpfSetc_track, setHpf_same]
    exact ⟨rfl, hpos, hle, fun w hw => setHpf_ne _ _ hw, rfl, errClamped_eq .., keeps_setTrack_flagIf ..⟩

end Sys2Proof.Proofs
end

section
/-! SUPPORT. The lag of a delay: how one tick and one retiming move it, and that each keeps the lag invariant (R176, R178, R179). -/

namespace Sys2Proof.Laws

open Sys2Proof Sys2Proof.Machine

/-! ## The cursors and the countdown -/

theorem advanceRead_lt (tr : Track) : advanceRead tr < Config.RINGMOD := Nat.mod_lt _ (by decide)

theorem toNat_advanceRead (tr : Track) : (BitVec.ofNat 32 (advanceRead tr)).toNat = advanceRead tr := by
  rw [BitVec.toNat_ofNat, Nat.mod_eq_of_lt ((advanceRead_lt tr).trans (by decide))]

theorem countdown_rate (tr : Track) : (countdown tr).1 = if tr.dcnt = 1 then 0x00010000 else tr.drate := by
  unfold countdown
  split
  · rfl
  · case isFalse hzero =>
    have hne : tr.dcnt ≠ 1 := fun h => hzero (by rw [h]; decide)
    rw [if_neg hne]

theorem toNat_countdown_count (tr : Track) : (countdown tr).2.toNat = tr.dcnt.toNat - 1 := by
  unfold countdown
  split
  · dsimp only
    bv_omega
  · dsimp only
    omega

/-- The delay registers after one tick (R178). -/
def delayTick (tr : Track) : Track :=
  { tr with drate := (countdown tr).1, dcnt := (countdown tr).2, dwp := advanceWrite tr, drp := BitVec.ofNat 32 (advanceRead tr) }

/-! ## The lag -/

theorem currentLag_lt (tr : Track) : currentLag tr < Config.RINGMOD := by
  simp only [currentLag, Config.RINGMOD, Config.CAP]
  omega

/-- A tick moves the write cursor one slot and the read cursor by the rate, so the lag grows by their difference, modulo the ring. -/
theorem currentLag_delayTick (tr : Track) :
    (currentLag (delayTick tr) : Int) = (currentLag tr + 65536 - tr.drate.toNat) % Config.RINGMOD := by
  have hread := toNat_advanceRead tr
  simp only [currentLag, delayTick, hread]
  simp only [advanceRead, advanceWrite, Config.RINGMOD, Config.CAP]
  omega

/-- The lag after a tick, when it stays inside the ring. -/
theorem currentLag_delayTick_of_rate {tr : Track} {n : Nat} (h : currentLag tr + 65536 = n + tr.drate.toNat)
    (hn : n < Config.RINGMOD) : currentLag (delayTick tr) = n := by
  have hlag := currentLag_delayTick tr
  rw [show (currentLag tr + 65536 - tr.drate.toNat : Int) = n by omega, Int.emod_eq_of_lt (by omega) (by omega)] at hlag
  exact_mod_cast hlag

/-- The last tick of a retiming returns the rate to one slot a tick. -/
theorem delayTick_of_one {tr : Track} (h : tr.dcnt = 1) : (delayTick tr).drate = 0x00010000 ∧ (delayTick tr).dcnt = 0 := by
  simp [delayTick, countdown, h]

/-- A tick before the last keeps the rate and leaves something to count. -/
theorem delayTick_of_ne_one {tr : Track} (hzero : tr.dcnt ≠ 0) (hone : tr.dcnt ≠ 1) :
    (delayTick tr).drate = tr.drate ∧ (delayTick tr).dcnt ≠ 0 := by
  refine ⟨(countdown_rate tr).trans (if_neg hone), fun h => ?_⟩
  have hcount : (delayTick tr).dcnt.toNat = tr.dcnt.toNat - 1 := toNat_countdown_count tr
  bv_omega

theorem delayTick_of_zero {tr : Track} (h : tr.dcnt = 0) : (delayTick tr).drate = tr.drate ∧ (delayTick tr).dcnt = 0 := by
  simp [delayTick, countdown, h]

/-! ## The invariant -/

/-- What a retiming has still to do (R176, R179): the last clause of the lag invariant. -/
abbrev RetimingLegal (tr : Track) : Prop :=
  (tr.drate = 0x00018000 ∧ tr.dcnt ≠ 0 ∧ currentLag tr = tr.dlag.toNat * 65536 + tr.dcnt.toNat * 0x8000) ∨
  (tr.drate = 0x00008000 ∧ tr.dcnt ≠ 0 ∧ currentLag tr + tr.dcnt.toNat * 0x8000 = tr.dlag.toNat * 65536) ∨
  (tr.drate = 0x00010000 ∧ tr.dcnt = 0 ∧ currentLag tr = tr.dlag.toNat * 65536)

/-- The lag invariant with the ring's numbers written out; that the lag is a number of half slots follows from its last clause. -/
theorem delayLegal_iff (tr : Track) : tr.DelayLegal ↔
    tr.drp.toNat < Config.RINGMOD ∧ 1 ≤ tr.dlag.toNat ∧ tr.dlag.toNat ≤ 44099 ∧ 65536 ≤ currentLag tr ∧
      currentLag tr ≤ 2890072064 ∧ RetimingLegal tr := by
  constructor
  · rintro ⟨hread, hlo, hhi, -, hmin, hmax, hretiming⟩
    exact ⟨hread, hlo, hhi, hmin, hmax, hretiming⟩
  · rintro ⟨hread, hlo, hhi, hmin, hmax, hretiming⟩
    have hhalf : currentLag tr % 0x8000 = 0 := by omega
    exact ⟨hread, hlo, hhi, hhalf, hmin, hmax, hretiming⟩

/-- A tick keeps the lag invariant: a retiming in flight moves the lag by half a slot and counts one down, the last one ends at DLAG,
and with no retiming the cursors move together (R178). -/
theorem delayTick_legal {tr : Track} (h : tr.DelayLegal) : (delayTick tr).DelayLegal := by
  rw [delayLegal_iff] at h ⊢
  obtain ⟨-, hlo, hhi, hmin, hmax, hretiming⟩ := h
  have hread : (delayTick tr).drp.toNat < Config.RINGMOD := (toNat_advanceRead tr).trans_lt (advanceRead_lt tr)
  have hcount : (delayTick tr).dcnt.toNat = tr.dcnt.toNat - 1 := toNat_countdown_count tr
  have hring : Config.RINGMOD = 2890137600 := rfl
  have hsame : (delayTick tr).dlag.toNat = tr.dlag.toNat := rfl
  obtain ⟨hrate, hne, hlag⟩ | ⟨hrate, hne, hlag⟩ | ⟨hrate, hzero, hlag⟩ := hretiming
  · have hslots : tr.drate.toNat = 0x18000 := by rw [hrate]; rfl
    have hpos : tr.dcnt.toNat ≠ 0 := by bv_omega
    have hshrunk : currentLag (delayTick tr) = currentLag tr - 0x8000 := currentLag_delayTick_of_rate (by omega) (by omega)
    refine ⟨hread, hlo, hhi, by omega, by omega, ?_⟩
    rcases eq_or_ne tr.dcnt 1 with hone | hone
    · obtain ⟨hend, hdone⟩ := delayTick_of_one hone
      exact .inr (.inr ⟨hend, hdone, by bv_omega⟩)
    · obtain ⟨hkeep, hleft⟩ := delayTick_of_ne_one hne hone
      exact .inl ⟨hkeep.trans hrate, hleft, by omega⟩
  · have hslots : tr.drate.toNat = 0x8000 := by rw [hrate]; rfl
    have hpos : tr.dcnt.toNat ≠ 0 := by bv_omega
    have hgrown : currentLag (delayTick tr) = currentLag tr + 0x8000 := currentLag_delayTick_of_rate (by omega) (by omega)
    refine ⟨hread, hlo, hhi, by omega, by omega, ?_⟩
    rcases eq_or_ne tr.dcnt 1 with hone | hone
    · obtain ⟨hend, hdone⟩ := delayTick_of_one hone
      exact .inr (.inr ⟨hend, hdone, by bv_omega⟩)
    · obtain ⟨hkeep, hleft⟩ := delayTick_of_ne_one hne hone
      exact .inr (.inl ⟨hkeep.trans hrate, hleft, by omega⟩)
  · have hslots : tr.drate.toNat = 0x10000 := by rw [hrate]; rfl
    have hstill : currentLag (delayTick tr) = currentLag tr := currentLag_delayTick_of_rate (by omega) (by omega)
    obtain ⟨hkeep, hdone⟩ := delayTick_of_zero hzero
    exact ⟨hread, hlo, hhi, by omega, by omega, .inr (.inr ⟨hkeep.trans hrate, hdone, by omega⟩)⟩

/-! ## DLY.SETT -/

/-- Halving stops at the first time that fits (R179). -/
theorem halveToFit_spec {rounds time : Nat} (h : time < 44100 * 2 ^ rounds) :
    ∃ m, halveToFit rounds time = time / 2 ^ m ∧ time / 2 ^ m ≤ 44099 ∧ (m ≠ 0 → 44099 < time / 2 ^ (m - 1)) := by
  induction rounds generalizing time with
  | zero => exact ⟨0, (Nat.div_one _).symm, by omega, fun hne => absurd rfl hne⟩
  | succ rounds ih =>
    by_cases hfit : 44099 < time
    · obtain ⟨m, hhalved, hle, hfirst⟩ := ih (time := time / 2) (by omega)
      have hdiv : ∀ n, time / 2 / 2 ^ n = time / 2 ^ (n + 1) := fun n => by rw [Nat.div_div_eq_div_mul, pow_succ']
      rw [hdiv] at hhalved hle
      refine ⟨m + 1, (if_pos hfit).trans hhalved, hle, fun _ => ?_⟩
      rcases m with _ | m
      · rwa [pow_zero, Nat.div_one]
      · exact (hfirst (Nat.succ_ne_zero m)).trans_eq (hdiv m)
    · exact ⟨0, (if_neg hfit).trans (Nat.div_one _).symm, by omega, fun hne => absurd rfl hne⟩

/-- The lag DLY.SETT takes for a time in X[rs] (R179). -/
theorem fitTime_spec (time : Word) :
    ∃ m, fitTime time.toNat = max (time.toNat / 2 ^ m) 1 ∧ time.toNat / 2 ^ m ≤ 44099 ∧
      (m ≠ 0 → 44099 < time.toNat / 2 ^ (m - 1)) := by
  obtain ⟨m, hhalved, hspec⟩ := halveToFit_spec (rounds := 32) (time := time.toNat) (by omega)
  exact ⟨m, by rw [fitTime, hhalved], hspec⟩

theorem fitTime_range (time : Word) : 1 ≤ fitTime time.toNat ∧ fitTime time.toNat ≤ 44099 := by
  obtain ⟨m, hfit, hle, -⟩ := fitTime_spec time
  omega

theorem toNat_fitTime (time : Word) : (BitVec.ofNat 32 (fitTime time.toNat)).toNat = fitTime time.toNat := by
  obtain ⟨-, hle⟩ := fitTime_range time
  rw [BitVec.toNat_ofNat, Nat.mod_eq_of_lt (by omega)]

/-- The registers DLY.SETT leaves: the cursors stay (R179). -/
def settTrack (tr : Track) (time : Word) : Track :=
  { tr with dlag := BitVec.ofNat 32 (fitTime time.toNat), drate := (retime (currentLag tr) (fitTime time.toNat * 65536)).1,
            dcnt := (retime (currentLag tr) (fitTime time.toNat * 65536)).2 }

theorem dlySett_eq (k : Fin Config.NTRK) (time : Word) (s : State) :
    dlySett k time s = (s.setTrack k (settTrack (s.track k) time)).flagIf (fitTime time.toNat != time.toNat) .clamp := rfl

theorem toNat_settTrack_dlag (tr : Track) (time : Word) : (settTrack tr time).dlag.toNat = fitTime time.toNat := toNat_fitTime time

theorem currentLag_settTrack (tr : Track) (time : Word) : currentLag (settTrack tr time) = currentLag tr := rfl

/-- A shorter lag is reached at rate 1.5 (R179). -/
theorem settTrack_of_shorter {tr : Track} {time : Word} (h : fitTime time.toNat * 65536 < currentLag tr) :
    (settTrack tr time).drate = 0x00018000 ∧
      (settTrack tr time).dcnt.toNat = (currentLag tr - fitTime time.toNat * 65536) / 2 ^ 15 := by
  have hlag : currentLag tr < 2890137600 := currentLag_lt tr
  simp only [settTrack, retime, if_pos h, BitVec.toNat_ofNat, true_and]
  exact Nat.mod_eq_of_lt (by omega)

/-- A longer lag is reached at rate 0.5 (R179). -/
theorem settTrack_of_longer {tr : Track} {time : Word} (h : currentLag tr < fitTime time.toNat * 65536) :
    (settTrack tr time).drate = 0x00008000 ∧
      (settTrack tr time).dcnt.toNat = (fitTime time.toNat * 65536 - currentLag tr) / 2 ^ 15 := by
  obtain ⟨-, hle⟩ := fitTime_range time
  simp only [settTrack, retime, if_neg h.not_gt, if_pos h, BitVec.toNat_ofNat, true_and]
  exact Nat.mod_eq_of_lt (by omega)

theorem settTrack_of_equal {tr : Track} {time : Word} (h : currentLag tr = fitTime time.toNat * 65536) :
    (settTrack tr time).drate = 0x00010000 ∧ (settTrack tr time).dcnt = 0 := by
  simp [settTrack, retime, h]

/-- DLY.SETT keeps the lag invariant: it counts the half slots between the lag, which is a number of them, and the new DLAG (R179). -/
theorem settTrack_legal {tr : Track} (h : tr.DelayLegal) (time : Word) : (settTrack tr time).DelayLegal := by
  rw [delayLegal_iff]
  obtain ⟨hread, -, -, hhalf, hmin, hmax, -⟩ := h
  obtain ⟨hlo, hhi⟩ := fitTime_range time
  have hdlag := toNat_settTrack_dlag tr time
  have hcur := currentLag_settTrack tr time
  refine ⟨hread, by omega, by omega, hmin, hmax, ?_⟩
  rcases lt_trichotomy (fitTime time.toNat * 65536) (currentLag tr) with hlt | heq | hgt
  · obtain ⟨hrate, hcount⟩ := settTrack_of_shorter hlt
    exact .inl ⟨hrate, by bv_omega, by omega⟩
  · obtain ⟨hrate, hcount⟩ := settTrack_of_equal heq.symm
    exact .inr (.inr ⟨hrate, hcount, by omega⟩)
  · obtain ⟨hrate, hcount⟩ := settTrack_of_longer hgt
    exact .inr (.inl ⟨hrate, by bv_omega, by omega⟩)

/-! ## INIT -/

theorem toNat_initialRead {dlag : Word} (hlo : 1 ≤ dlag.toNat) (hhi : dlag.toNat ≤ 44099) :
    (initialRead dlag).toNat = (44100 - dlag.toNat) * 65536 := by
  have hslot : (((Config.CAP : Int) - dlag.toNat) % Config.CAP).toNat = 44100 - dlag.toNat := by
    simp only [Config.CAP]
    omega
  rw [initialRead, hslot, BitVec.toNat_shiftLeft, BitVec.toNat_ofNat, Nat.shiftLeft_eq]
  omega

/-- INIT puts the read cursor DLAG behind a write cursor of 0 (R294). -/
theorem initRegs_delayLegal {tr : Track} (h : tr.DelayLegal) : (initRegs tr).DelayLegal := by
  rw [delayLegal_iff] at h ⊢
  obtain ⟨-, hlo, hhi, -⟩ := h
  have hread : (initRegs tr).drp.toNat = (44100 - tr.dlag.toNat) * 65536 := toNat_initialRead hlo hhi
  have hlag : currentLag (initRegs tr) = tr.dlag.toNat * 65536 := by
    rw [currentLag, hread, show (initRegs tr).dwp.val = 0 from rfl]
    simp only [Config.RINGMOD, Config.CAP]
    omega
  have hring : Config.RINGMOD = 2890137600 := rfl
  exact ⟨by omega, hlo, hhi, by omega, by omega, .inr (.inr ⟨rfl, rfl, hlag⟩)⟩

end Sys2Proof.Laws
end

section
/-! SUPPORT. What a step does to the lag invariant of the delays. `TrackChange` allows a retiming any number as its time, and a number
beyond 32 bits need not fit after 32 halvings; here the time of DLY.SETT is followed as the register word it is. -/

namespace Sys2Proof.Laws

open Sys2Proof Sys2Proof.Machine

theorem unitChange_delayLegal {tr tr' : Track} (hchange : UnitChange tr tr') (h : tr.DelayLegal) : tr'.DelayLegal := by
  cases hchange with
  | delay => exact delayTick_legal h
  | voice | tune | phase | rewind | sample | stage | highPass | bus | boundary | countDown => exact h

/-- CSRW writes no register the lag depends on (R28, R39). -/
theorem write_delayLegal {r : TrackReg} {v : Word} {tr tr' : Track} {hit : Bool} (hw : r.write v tr = some (tr', hit))
    (h : tr.DelayLegal) : tr'.DelayLegal := by
  cases r <;> cases hw <;> exact h

/-- Every delay whose lag is legal keeps it so. -/
def DelaysKept (s u : State) : Prop := ∀ k, (s.track k).DelayLegal → (u.track k).DelayLegal

namespace DelaysKept

theorem of_eq {s u : State} (h : u.tracks = s.tracks) : DelaysKept s u := fun k hk => by rwa [track_eq_of_tracks h]

theorem trans {s u v : State} (h : DelaysKept s u) (h' : DelaysKept u v) : DelaysKept s v := fun k hk => h' k (h k hk)

theorem of_frame {s u : State} (h : RenderFrame s u) : DelaysKept s u := by
  intro k hk
  have hchanges := h.tracks k
  generalize u.track k = tr at hchanges ⊢
  induction hchanges with
  | refl => exact hk
  | tail _ hstep ih => exact unitChange_delayLegal hstep ih

theorem setTrack {s : State} {k : Fin Config.NTRK} {tr : Track} (h : (s.track k).DelayLegal → tr.DelayLegal) :
    DelaysKept s (s.setTrack k tr) := by
  intro j hj
  rw [track_setTrack]
  split
  · case isTrue hjk => subst hjk; exact h hj
  · exact hj

theorem setTrack_flagIf {s : State} {k : Fin Config.NTRK} {tr : Track} {b : Bool} {c : Condition}
    (h : (s.track k).DelayLegal → tr.DelayLegal) : DelaysKept s ((s.setTrack k tr).flagIf b c) :=
  (setTrack h).trans (of_eq (flagIf_tracks _ b c))

end DelaysKept

theorem dlySett_delaysKept (k : Fin Config.NTRK) (time : Word) (s : State) : DelaysKept s (dlySett k time s) :=
  .setTrack_flagIf fun h => settTrack_legal h time

/-- The sampler's buffer and a cutoff are no part of the delay (R143, R166). -/
theorem smpSets_delaysKept (k : Fin Config.NTRK) (base len : Word) (s : State) : DelaysKept s (smpSets k base len s) :=
  .setTrack_flagIf fun h => h

theorem hpfSetc_delaysKept (k : Fin Config.NTRK) (v : Fin Config.NHPF) (f : F32) (s : State) : DelaysKept s (hpfSetc k v f s) :=
  .setTrack_flagIf fun h => h

theorem revRst_delaysKept (k : Fin Config.NTRK) (s : State) : DelaysKept s (revRst k s) := by
  have hmute := muteStages_tracks k s
  refine (DelaysKept.of_eq hmute).trans (.setTrack fun h => ?_)
  rw [track_eq_of_tracks hmute] at h
  exact h

theorem initTrack_delaysKept (s : State) (k : Fin Config.NTRK) : DelaysKept s (initTrack s k) :=
  (DelaysKept.setTrack (initRegs_delayLegal (tr := s.track k))).trans <|
    (DelaysKept.of_eq (by rw [zeroWords_tracks, zeroWords_tracks])).trans (revRst_delaysKept k _)

theorem initTracks_delaysKept (ks : List (Fin Config.NTRK)) (s : State) : DelaysKept s (ks.foldl initTrack s) := by
  induction ks generalizing s with
  | nil => exact .of_eq rfl
  | cons k ks ih =>
    rw [List.foldl_cons]
    exact (initTrack_delaysKept s k).trans (ih _)

theorem beginRun_delaysKept (s : State) : DelaysKept s (beginRun s) :=
  (initTracks_delaysKept allTracks s).trans (.of_eq (beginRun_tracks s))

theorem execCsrr_tracks (rd : Reg) (t : BitVec 4) (csr : BitVec 8) (s : State) :
    Ensures (execCsrr rd t csr s) fun u => u.tracks = s.tracks := by
  have hraise : ∀ c w, (s.raise c w).tracks = s.tracks := fun c w => rfl
  unfold execCsrr
  refine .ite (.reject hraise _) (.ite ?_ ?_)
  · cases globalReg csr with
    | some g => exact .next rfl
    | none => exact .reject hraise _
  · cases trackReg csr with
    | some r => exact .onTrack hraise fun k => .next rfl
    | none => exact .reject hraise _

theorem execCsrw_delaysKept (t : BitVec 4) (csr : BitVec 8) (rs : Reg) (s : State) :
    Ensures (execCsrw t csr rs s) (DelaysKept s) := by
  have hraise : ∀ c w, DelaysKept s (s.raise c w) := fun c w => .of_eq rfl
  unfold execCsrw
  refine .ite (.reject hraise _) (.ite ?_ ?_)
  · cases globalReg csr with
    | none => exact .reject hraise _
    | some g =>
      dsimp only
      split
      · exact .next (.of_eq (globalWrite_tracks ‹_›))
      · exact .reject hraise _
  · cases trackReg csr with
    | none => exact .reject hraise _
    | some r =>
      refine .onTrack hraise fun k => ?_
      split
      · exact .next (.setTrack_flagIf (write_delayLegal ‹_›))
      · exact .reject hraise _

/-- Which change a command makes to which track, once more, for the sake of the retiming's time. -/
theorem exec_delaysKept (i : Instr) (s : State) : Ensures (exec i s) (DelaysKept s) := by
  have hraise : ∀ c w, DelaysKept s (s.raise c w) := fun c w => .of_eq rfl
  have hunit : ∀ {u : State}, UnitFrame s u → DelaysKept s u := fun h => .of_frame h.toRenderFrame
  have hsetX : ∀ {u : State} {rd : Reg} {y : Word}, UnitFrame s u → DelaysKept s (u.setX rd y) :=
    fun h => (hunit h).trans (.of_eq rfl)
  have hcommand : ∀ {c : Instr} {t : BitVec 4} {f : Fin Config.NTRK → State}, (∀ k, UnitFrame s (f k)) →
      Ensures (onTrack c t s fun k => directOnly c s (.next (f k))) (DelaysKept s) :=
    fun h => .onTrack hraise fun k => .directOnly hraise (.next (hunit (h k)))
  cases i <;> unfold exec
  case nop | lil | lih | cvtS16 | mixCvt => exact .next (.of_eq rfl)
  case engStop | engPause | engResume => exact .whenRunning hraise (.next (.of_eq rfl))
  case csrr rd t csr => exact fun u h => .of_eq (execCsrr_tracks rd t csr s u h)
  case csrw t csr rs => exact execCsrw_delaysKept t csr rs s
  case ldm rd n ra post =>
    exact .onSpace hraise fun sp => .ite (.next (.of_eq (postIncrement_tracks post ra _ s))) (.reject hraise _)
  case stm n ra post rv =>
    exact .onSpace hraise fun sp => .ite (.reject hraise _) <| .ite (.reject hraise _) <|
      .ite (.next (.of_eq ((postIncrement_tracks post ra _ _).trans (memWrite_tracks sp _ _ s)))) (.reject hraise _)
  case engStart =>
    refine .ite (.reject hraise _) (.ite (.next ?_) (.next ?_))
    · exact (DelaysKept.of_eq (by rw [afterDraw_tracks, afterDraw_tracks])).trans (beginRun_delaysKept _)
    · exact .of_eq (by rw [abortStart_tracks, afterDraw_tracks, afterDraw_tracks])
  case smpSets t rb rl => exact .onTrack hraise fun k => .next (smpSets_delaysKept k _ _ s)
  case hpfSetc t v rs => exact .onTrack hraise fun k => .onHighPass hraise fun w => .next (hpfSetc_delaysKept k w _ s)
  case dlySett t rs => exact .onTrack hraise fun k => .next (dlySett_delaysKept k _ s)
  case revRst t => exact .onTrack hraise fun k => .next (revRst_delaysKept k s)
  case wtSeal n => exact .directOnly hraise (.next (.of_eq (by simp)))
  case apfMute t v =>
    exact .onTrack hraise fun k => .onStage hraise fun w => .directOnly hraise (.next (.of_eq (zeroWords_tracks ..)))
  case seqRnds t => exact .onTrack hraise fun k => .next (.of_eq (by simp))
  case seqRndr t => exact .onTrack hraise fun k => .next (.of_eq (by simp))
  case mixPan rd t rs => exact .onTrack hraise fun k => .next (.of_eq rfl)
  case mixEmit => exact .directOnly hraise (.next (.of_frame (mixEmit_renderFrame s)))
  case oscSetf t rs => exact hcommand fun k => oscSetf_unitFrame k _ s
  case smpTrig t => exact hcommand fun k => smpTrig_unitFrame k s
  case dlyIn t rs => exact hcommand fun k => dlyIn_unitFrame k _ s
  case revIn t rs => exact hcommand fun k => revIn_unitFrame k _ s
  case seqTick t => exact hcommand fun k => seqTick_unitFrame k s
  case voxTrig t note accent slide => exact hcommand fun k => voxTrig_unitFrame k note accent slide s
  case voxOff t => exact hcommand fun k => voxOff_unitFrame k s
  case oscTick rd t =>
    exact .onTrack hraise fun k => .directOnly hraise (.resultToX fun y u h => hsetX (oscTick_unitFrame h))
  case smpTick rd t =>
    exact .onTrack hraise fun k => .directOnly hraise (.resultToX fun y u h => hsetX (smpTick_unitFrame h))
  case apfProc rd t v rs =>
    exact .onTrack hraise fun k => .onStage hraise fun w => .directOnly hraise (.resultToX fun y u h => hsetX (apfProc_unitFrame h))
  case hpfProc rd t v rs =>
    refine .onTrack hraise fun k => .onHighPass hraise fun w => .directOnly hraise (.resultToX fun y u h => ?_)
    cases h
    exact hsetX (hpfProc_unitFrame k w _ s)
  case dlyOut rd t =>
    exact .onTrack hraise fun k => .directOnly hraise (.next ((hunit (dlyOut_unitFrame k s)).trans (.of_eq rfl)))
  case revProc rd t =>
    refine .onTrack hraise fun k => .directOnly hraise ?_
    split
    · case h_1 y u h => exact .next ((hunit (revProc_unitFrame h)).trans (.of_eq rfl))
    · exact .fault _
  case voxTick rd t =>
    refine .onTrack hraise fun k => .directOnly hraise ?_
    split
    · case h_1 v u h => exact .next ((hunit (voxTick_unitFrame h)).trans (.of_eq rfl))
    · exact .fault _
  case mixTrk t => exact .onTrack hraise fun k => .directOnly hraise (.resultOf fun u h => hunit (mixTrk_unitFrame h))

theorem commandTurn_delaysKept (w : Word) (s : State) : Ensures (commandTurn w s) (DelaysKept s) := by
  unfold commandTurn
  split
  · exact exec_delaysKept _ s
  · exact .next (.of_eq rfl)

theorem resetTurn_delaysKept (s : State) : Ensures (resetTurn s) (DelaysKept s) := by
  refine .next fun k _ => ?_
  rw [show State.track { State.reset with inputs := s.inputs } k = Track.reset from reset_track k]
  exact reset_delayLegal

theorem step_delaysKept {s u : State} (h : step s = .next u) : DelaysKept s u := by
  have hdrop : DelaysKept s s.dropTurn := .of_eq rfl
  unfold step at h
  split at h
  · exact .of_frame (agentTurn_renderFrame h)
  · exact hdrop.trans (commandTurn_delaysKept _ _ u h)
  · exact hdrop.trans (.of_frame (agentTurn_renderFrame h))
  · exact hdrop.trans (resetTurn_delaysKept _ u h)

end Sys2Proof.Laws
end

section
/-! PROOF. The lag invariant (O56). -/

namespace Sys2Proof.Proofs

open Sys2Proof Sys2Proof.Machine Sys2Proof.Laws

/-- Settles O56: of all a step does to a track only a tick, a retiming, INIT and reset touch the lag, and each keeps it; the cursors
are advanced modulo the ring, so every slot is one of its elements. -/
theorem delayInvariant : Obligations.DelayInvariant := by
  refine ⟨fun k => ?_, fun k tr _ => ⟨?_, ?_, ?_⟩, fun s u hlegal hstep k => step_delaysKept hstep k (hlegal k)⟩
  · rw [reset_track]
    exact reset_delayLegal
  · exact elementOf_ringAddr (.inl rfl) k ⟨_, Nat.div_lt_of_lt_mul (Nat.mul_comm .. ▸ advanceRead_lt tr)⟩
  · exact elementOf_ringAddr (.inl rfl) k ⟨_, Nat.mod_lt _ (by decide)⟩
  · exact elementOf_ringAddr (.inl rfl) k _

end Sys2Proof.Proofs
end

section
/-! SUPPORT. DLY.IN and DLY.OUT (R177, R178): the two ring slots they store to, the registers and the slots a tick leaves. -/

namespace Sys2Proof.Laws

open Sys2Proof Sys2Proof.Machine

/-! ## Frames -/

/-- The frame of one change after another. -/
theorem keeps_trans {s u v : State} {regs regs' : List Reg} {tracks tracks' : List (Fin Config.NTRK)}
    {stored stored' : List (Nat × Nat)} (h : Keeps s u regs tracks stored) (h' : Keeps u v regs' tracks' stored') :
    Keeps s v (regs ++ regs') (tracks ++ tracks') (stored ++ stored') where
  regs r hr := by
    rw [List.mem_append, not_or] at hr
    rw [h'.regs r hr.2, h.regs r hr.1]
  tracks k hk := by
    rw [List.mem_append, not_or] at hk
    rw [h'.tracks k hk.2, h.tracks k hk.1]
  bytes a ha := by
    rw [List.forall_mem_append] at ha
    rw [h'.bytes a ha.2, h.bytes a ha.1]
  rest := by
    have hrest := h.rest
    rw [← h'.rest] at hrest
    exact hrest

/-! ## A slot of both rings -/

/-- Slot i of both rings written (R177, R178). -/
def storeRings (k : Fin Config.NTRK) (i : Fin Config.CAP) (l r : F32) (s : State) : State :=
  (s.setWordAt .dl (ringAddr k i.val) l).setWordAt .dr (ringAddr k i.val) r

theorem storeRings_memRead_left (k : Fin Config.NTRK) (i : Fin Config.CAP) (l r : F32) (s : State) :
    (storeRings k i l r s).memRead .dl (ringAddr k i.val) = l := by
  have hlt := elementOf_lt (elementOf_ringAddr (sp := .dl) (.inl rfl) k i)
  exact (wordAt_setWordAt_ne _ r hlt hlt rfl rfl (.inl (by decide))).trans (wordAt_setWordAt_same ..)

theorem storeRings_memRead_right (k : Fin Config.NTRK) (i : Fin Config.CAP) (l r : F32) (s : State) :
    (storeRings k i l r s).memRead .dr (ringAddr k i.val) = r := wordAt_setWordAt_same ..

theorem keeps_storeRings (k : Fin Config.NTRK) (i : Fin Config.CAP) (l r : F32) (s : State) :
    Keeps s (storeRings k i l r s) [] [] [wordArea .dl (ringAddr k i.val), wordArea .dr (ringAddr k i.val)] :=
  keeps_trans (keeps_setWordAt ..) (keeps_setWordAt ..)

/-! ## DLY.IN and REV.IN -/

/-- The right slot is read after the left one is written, which leaves it as it was. -/
theorem dlyIn_eq (k : Fin Config.NTRK) (x : F32) (s : State) :
    dlyIn k x s = storeRings k (s.track k).dwp
      (fadd (s.memRead .dl (ringAddr k (s.track k).dwp.val)) (fmul x (s.track k).dlvl))
      (fadd (s.memRead .dr (ringAddr k (s.track k).dwp.val)) (fmul (fmul x (s.track k).dlvl) (fsub fOne (s.track k).dspr))) s := by
  have hlt := elementOf_lt (elementOf_ringAddr (sp := .dl) (.inl rfl) k (s.track k).dwp)
  unfold dlyIn
  dsimp only
  rw [wordAt_setWordAt_ne s _ hlt hlt rfl rfl (.inl (by decide))]
  rfl

theorem exec_dlyIn {s : State} (k : Fin Config.NTRK) (rs : Reg) (h : s.status.active = false) :
    exec (.dlyIn (trackField k) rs) s = .next (dlyIn k (s.getX rs) s) := by
  simp only [exec, execDlyIn, onTrack_field, directOnly_of_direct _ _ h]

theorem exec_revIn {s : State} (k : Fin Config.NTRK) (rs : Reg) (h : s.status.active = false) :
    exec (.revIn (trackField k) rs) s = .next (revIn k (s.getX rs) s) := by
  simp only [exec, execRevIn, onTrack_field, directOnly_of_direct _ _ h]

/-! ## DLY.OUT -/

/-- The pair a tick reads, at the advanced read cursor (R178). -/
def ringPair (k : Fin Config.NTRK) (s : State) : F32 × F32 :=
  (ringRead s .dl k (advanceRead (s.track k)), ringRead s .dr k (advanceRead (s.track k)))

/-- The feedback of that pair before it is filtered (R178). -/
def feedback (k : Fin Config.NTRK) (s : State) : F32 × F32 :=
  (fmul (s.track k).dfb (spreadMix (s.track k) (ringPair k s).1 (ringPair k s).2),
    fmul (s.track k).dfb (spreadMix (s.track k) (ringPair k s).2 (ringPair k s).1))

/-- A high-pass unit after input x (R165). -/
def highPassTick (h : HighPass) (x : F32) : HighPass := { h with x1 := x, y1 := highPassOut h x }

/-- The high-pass units 0 and 1 after a pair of inputs (R178). -/
def filterPair (tr : Track) (x : F32 × F32) : Track :=
  (tr.setHpf 0 (highPassTick tr.hpf[0] x.1)).setHpf 1 (highPassTick tr.hpf[1] x.2)

theorem filterPair_hpf_zero (tr : Track) (x : F32 × F32) : (filterPair tr x).hpf[0] = highPassTick tr.hpf[0] x.1 :=
  (setHpf_ne _ _ (u := 1) (v := 0) (by decide)).trans (setHpf_same ..)

theorem filterPair_hpf_one (tr : Track) (x : F32 × F32) : (filterPair tr x).hpf[1] = highPassTick tr.hpf[1] x.2 := setHpf_same _ 1 _

theorem filterPair_hpf_two (tr : Track) (x : F32 × F32) : (filterPair tr x).hpf[2] = tr.hpf[2] :=
  (setHpf_ne _ _ (u := 1) (v := 2) (by decide)).trans (setHpf_ne _ _ (u := 0) (v := 2) (by decide))

/-- Unit 1 finds its history as unit 0 left it, which is as it was. -/
theorem hpfProc_one_hpfProc_zero (k : Fin Config.NTRK) (x y : F32) (s : State) : hpfProc k 1 y (hpfProc k 0 x s).2 =
    (highPassOut (s.track k).hpf[1] y, s.setTrack k (filterPair (s.track k) (x, y))) := by
  have hone : ((hpfProc k 0 x s).2.track k).hpf[1] = (s.track k).hpf[1] := by
    rw [hpfProc_track]
    exact setHpf_ne _ _ (u := 0) (v := 1) (by decide)
  have htrack : (hpfProc k 0 x s).2.track k = (s.track k).setHpf 0 (highPassTick (s.track k).hpf[0] x) := hpfProc_track k 0 x s
  calc hpfProc k 1 y (hpfProc k 0 x s).2
    _ = (highPassOut ((hpfProc k 0 x s).2.track k).hpf[1] y, (hpfProc k 0 x s).2.setTrack k
          (((hpfProc k 0 x s).2.track k).setHpf 1 (highPassTick ((hpfProc k 0 x s).2.track k).hpf[1] y))) := rfl
    _ = _ := by
      rw [hone, htrack, hpfProc, setTrack_setTrack]
      rfl

/-- All a tick of the delay does: the pair it answers is read first, then its track and one slot of both rings are replaced (R178). -/
theorem dlyOut_eq (k : Fin Config.NTRK) (s : State) : dlyOut k s =
    (ringPair k s, storeRings k (advanceWrite (s.track k)) (highPassOut (s.track k).hpf[0] (feedback k s).1)
      (highPassOut (s.track k).hpf[1] (feedback k s).2)
      (s.setTrack k (filterPair (delayTick (s.track k)) (feedback k s)))) := by
  have htrack := track_setTrack_same s k (delayTick (s.track k))
  calc dlyOut k s
    _ = (ringPair k s, storeRings k (advanceWrite (s.track k))
          (hpfProc k 0 (feedback k s).1 (s.setTrack k (delayTick (s.track k)))).1
          (hpfProc k 1 (feedback k s).2 (hpfProc k 0 (feedback k s).1 (s.setTrack k (delayTick (s.track k)))).2).1
          (hpfProc k 1 (feedback k s).2 (hpfProc k 0 (feedback k s).1 (s.setTrack k (delayTick (s.track k)))).2).2) := rfl
    _ = _ := by
      rw [hpfProc_one_hpfProc_zero, setTrack_setTrack, htrack, hpfProc, htrack]
      rfl

theorem dlyOut_track (k : Fin Config.NTRK) (s : State) :
    (dlyOut k s).2.track k = filterPair (delayTick (s.track k)) (feedback k s) := by
  rw [dlyOut_eq]
  exact track_setTrack_same ..

theorem keeps_dlyOut (k : Fin Config.NTRK) (s : State) : Keeps s (dlyOut k s).2 [] [k]
    [wordArea .dl (ringAddr k (advanceWrite (s.track k)).val), wordArea .dr (ringAddr k (advanceWrite (s.track k)).val)] := by
  rw [dlyOut_eq]
  exact keeps_trans (keeps_setTrack ..) (keeps_storeRings ..)

theorem exec_dlyOut {s : State} (k : Fin Config.NTRK) (rd : Reg) (h : s.status.active = false) :
    exec (.dlyOut rd (trackField k)) s = .next ((dlyOut k s).2.setPair rd (ringPair k s)) := by
  simp only [exec, execDlyOut, onTrack_field, directOnly_of_direct _ _ h, dlyOut_eq]

theorem ringRead_of_slot (s : State) (sp : Space) (k : Fin Config.NTRK) {rp : Nat} (h : rp % 65536 = 0) :
    ringRead s sp k rp = s.wordAt sp (ringAddr k (rp / 65536)) := if_pos h

theorem ringRead_between (s : State) (sp : Space) (k : Fin Config.NTRK) {rp : Nat} (h : rp % 65536 ≠ 0) :
    ringRead s sp k rp =
      fadd (fmul (s.wordAt sp (ringAddr k (rp / 65536))) (fsub fOne (fmul (i2f (rp % 65536 : Nat)) fTwoPowMinus16)))
        (fmul (s.wordAt sp (ringAddr k ((rp / 65536 + 1) % 44100))) (fmul (i2f (rp % 65536 : Nat)) fTwoPowMinus16)) := if_neg h

/-! ## DLY.SETT -/

theorem exec_dlySett (s : State) (k : Fin Config.NTRK) (rs : Reg) :
    exec (.dlySett (trackField k) rs) s = .next (dlySett k (s.getX rs) s) := by
  simp only [exec, execDlySett, onTrack_field]

theorem dlySett_track (k : Fin Config.NTRK) (time : Word) (s : State) :
    (dlySett k time s).track k = settTrack (s.track k) time := by
  rw [dlySett_eq, flagIf_track, track_setTrack_same]

/-- CLAMP tells whether DLAG is the time asked for (R179). -/
theorem fitTime_bne (tr : Track) (time : Word) : (fitTime time.toNat != time.toNat) = ((settTrack tr time).dlag != time) := by
  rw [Bool.eq_iff_iff, bne_iff_ne, bne_iff_ne, ne_eq, ne_eq, ← BitVec.toNat_inj, toNat_settTrack_dlag]

end Sys2Proof.Laws
end

section
/-! PROOF. DLY.IN and REV.IN (O36), DLY.OUT (O37), DLY.SETT (O38). -/

namespace Sys2Proof.Proofs

open Sys2Proof Sys2Proof.Machine Sys2Proof.Laws

/-- Settles O36: DLY.IN is one store to a slot of both rings, REV.IN one to a register of the track. -/
theorem inputsAccumulate : Obligations.InputsAccumulate := by
  refine fun s k rs hdirect => ⟨⟨_, exec_dlyIn k rs hdirect, ?_⟩, _, exec_revIn k rs hdirect, track_setTrack_same .., rfl,
    keeps_setTrack ..⟩
  rw [dlyIn_eq]
  exact ⟨storeRings_memRead_left .., storeRings_memRead_right .., rfl, keeps_storeRings ..⟩

/-- Settles O37: the pair is read from the rings as they were; the units' outputs go into the slot at the new write cursor. -/
theorem delayReadsThenWrites : Obligations.DelayReadsThenWrites := by
  intro s k rd hdirect
  refine ⟨_, advanceRead (s.track k), (ringPair k s).1, (ringPair k s).2, (feedback k s).1, (feedback k s).2,
    highPassOut (s.track k).hpf[0] (feedback k s).1, highPassOut (s.track k).hpf[1] (feedback k s).2, exec_dlyOut k rd hdirect, ?_⟩
  rw [setPair_track, dlyOut_track, filterPair_hpf_zero, filterPair_hpf_one, filterPair_hpf_two]
  refine ⟨rfl, toNat_advanceRead _, rfl, fun hslot => ⟨ringRead_of_slot s .dl k hslot, ringRead_of_slot s .dr k hslot⟩,
    fun hbetween => ⟨ringRead_between s .dl k hbetween, ringRead_between s .dr k hbetween⟩, rfl, rfl, rfl, rfl,
    getX_setPair_fst .., getX_setPair_snd .., ?_, ?_, toNat_countdown_count _, countdown_rate _, rfl, rfl, rfl, rfl, ?_,
    keeps_trans (keeps_dlyOut k s) (onlyX_setPair ..).1⟩
  all_goals rw [dlyOut_eq]
  · exact storeRings_memRead_left ..
  · exact storeRings_memRead_right ..
  · rfl

/-- Settles O38: the three cases of the lag against the new one are those of `retime`. -/
theorem settStartsRetiming : Obligations.SettStartsRetiming := by
  intro s k rs
  obtain ⟨m, hfit, hspec⟩ := fitTime_spec (s.getX rs)
  refine ⟨_, m, exec_dlySett s k rs, ?_⟩
  rw [dlySett_track, toNat_settTrack_dlag]
  refine ⟨hspec.1, hspec.2, hfit, settTrack_of_shorter, settTrack_of_longer, settTrack_of_equal, rfl, ?_, ?_⟩
  · rw [← fitTime_bne]
    exact errClamped_eq ..
  · exact keeps_setTrack_flagIf ..

end Sys2Proof.Proofs
end

section
/-! PROOF. A retiming ends on time (O39). -/

namespace Sys2Proof.Laws

open Sys2Proof Sys2Proof.Machine

/-! ## The lag while a retiming is in flight -/

theorem currentLag_of_shrinking {tr : Track} (h : tr.DelayLegal) (hrate : tr.drate = 0x00018000) :
    currentLag tr = tr.dlag.toNat * 65536 + tr.dcnt.toNat * 0x8000 := by
  obtain ⟨-, -, -, -, -, ⟨-, -, hlag⟩ | ⟨hother, -⟩ | ⟨hother, -⟩⟩ := (delayLegal_iff tr).1 h
  · exact hlag
  all_goals exact absurd (hrate.symm.trans hother) (by decide)

theorem currentLag_of_growing {tr : Track} (h : tr.DelayLegal) (hrate : tr.drate = 0x00008000) :
    currentLag tr + tr.dcnt.toNat * 0x8000 = tr.dlag.toNat * 65536 := by
  obtain ⟨-, -, -, -, -, ⟨hother, -⟩ | ⟨-, -, hlag⟩ | ⟨hother, -⟩⟩ := (delayLegal_iff tr).1 h
  case inr.inl => exact hlag
  all_goals exact absurd (hrate.symm.trans hother) (by decide)

/-- With nothing left to count the lag is the one set, and the rate one slot a tick. -/
theorem currentLag_of_done {tr : Track} (h : tr.DelayLegal) (hdone : tr.dcnt = 0) :
    currentLag tr = tr.dlag.toNat * 65536 ∧ tr.drate = 0x00010000 := by
  obtain ⟨-, -, -, -, -, ⟨-, hne, -⟩ | ⟨-, hne, -⟩ | ⟨hrate, -, hlag⟩⟩ := (delayLegal_iff tr).1 h
  case inr.inr => exact ⟨hlag, hrate⟩
  all_goals exact absurd hdone hne

/-- The count is the distance of the lag from the one set in half slots, at most that of the shortest from the longest (R181). -/
theorem retiming_distance {tr : Track} (h : tr.DelayLegal) :
    (tr.dcnt.toNat * 0x8000 + currentLag tr = tr.dlag.toNat * 65536 ∨
      currentLag tr = tr.dlag.toNat * 65536 + tr.dcnt.toNat * 0x8000) ∧ tr.dcnt.toNat ≤ 88196 := by
  obtain ⟨-, hlo, hhi, hmin, hmax, ⟨-, -, hlag⟩ | ⟨-, -, hlag⟩ | ⟨-, hzero, hlag⟩⟩ := (delayLegal_iff tr).1 h
  · exact ⟨.inr hlag, by omega⟩
  · exact ⟨.inl ((Nat.add_comm ..).trans hlag), by omega⟩
  · have hcount : tr.dcnt.toNat = 0 := by rw [hzero]; rfl
    exact ⟨.inr (by rw [hlag, hcount, Nat.zero_mul, Nat.add_zero]), by omega⟩

/-! ## The track after some ticks -/

/-- Track tr' is as m ticks of the delay leave a track tr with a retiming in flight. -/
structure Retimed (tr tr' : Track) (m : Nat) : Prop where
  legal : tr'.DelayLegal
  dlag : tr'.dlag = tr.dlag
  count : tr'.dcnt.toNat = tr.dcnt.toNat - m
  rate : m < tr.dcnt.toNat → tr'.drate = tr.drate

namespace Retimed

variable {tr tr' : Track} {m : Nat}

theorem zero (h : tr.DelayLegal) : Retimed tr tr 0 := ⟨h, rfl, rfl, fun _ => rfl⟩

/-- One more tick; the feedback it filters is no matter of the lag. -/
theorem tick (h : Retimed tr tr' m) (x : F32 × F32) : Retimed tr (filterPair (delayTick tr') x) (m + 1) where
  legal := delayTick_legal h.legal
  dlag := h.dlag
  count := by
    have hcount := toNat_countdown_count tr'
    rw [h.count] at hcount
    exact hcount
  rate hlt := by
    have hne : tr'.dcnt ≠ 1 := by
      intro hone
      have hcount := h.count
      rw [hone, show (1 : Word).toNat = 1 from rfl] at hcount
      omega
    exact ((countdown_rate tr').trans (if_neg hne)).trans (h.rate (by omega))

theorem count_eq_zero (h : Retimed tr tr' m) (hm : m = tr.dcnt.toNat) : tr'.dcnt = 0 := by
  rw [← BitVec.toNat_inj, h.count, hm]
  exact Nat.sub_self _

theorem shrinks (h : Retimed tr tr' m) (hlegal : tr.DelayLegal) (hm : m ≤ tr.dcnt.toNat) (hrate : tr.drate = 0x00018000) :
    currentLag tr' + m * 0x8000 = currentLag tr := by
  have hstart := currentLag_of_shrinking hlegal hrate
  have hdlag := congrArg BitVec.toNat h.dlag
  have hcount := h.count
  rcases hm.lt_or_eq with hlt | heq
  · have hnow := currentLag_of_shrinking h.legal ((h.rate hlt).trans hrate)
    omega
  · have hnow := (currentLag_of_done h.legal (h.count_eq_zero heq)).1
    omega

theorem grows (h : Retimed tr tr' m) (hlegal : tr.DelayLegal) (hm : m ≤ tr.dcnt.toNat) (hrate : tr.drate = 0x00008000) :
    currentLag tr' = currentLag tr + m * 0x8000 := by
  have hstart := currentLag_of_growing hlegal hrate
  have hdlag := congrArg BitVec.toNat h.dlag
  have hcount := h.count
  rcases hm.lt_or_eq with hlt | heq
  · have hnow := currentLag_of_growing h.legal ((h.rate hlt).trans hrate)
    omega
  · have hnow := (currentLag_of_done h.legal (h.count_eq_zero heq)).1
    omega

end Retimed

/-- Ticks in DIRECT mode answer one after another. -/
theorem exists_retimed {u : State} {k : Fin Config.NTRK} (rd : Reg) (hdirect : u.status.active = false)
    (hlegal : (u.track k).DelayLegal) (m : Nat) :
    ∃ v, runCommands (List.replicate m (.dlyOut rd (trackField k))) u = .next v ∧ v.status.active = false ∧
      Retimed (u.track k) (v.track k) m := by
  induction m with
  | zero => exact ⟨u, rfl, hdirect, .zero hlegal⟩
  | succ m ih =>
    obtain ⟨v, hrun, hactive, hretimed⟩ := ih
    refine ⟨_, runCommands_replicate_succ hrun (exec_dlyOut k rd hactive), ?_, ?_⟩
    · rw [setPair_status, status_of_keeps (keeps_dlyOut k v), hactive]
    · rw [setPair_track, dlyOut_track]
      exact hretimed.tick _

end Sys2Proof.Laws

namespace Sys2Proof.Proofs

open Sys2Proof Sys2Proof.Machine Sys2Proof.Laws

/-- Settles O39: DLY.SETT leaves the lag as it is and the invariant whole; by induction on the number of ticks each moves the lag by
half a slot, and when the count is used up the invariant says that the lag is the one set. -/
theorem retimingEndsOnTime : Obligations.RetimingEndsOnTime := by
  intro s k rs rd u hdirect hlegal hsett
  have hu : u = dlySett k (s.getX rs) s := by
    rw [exec_dlySett] at hsett
    injection hsett with hnext
    exact hnext.symm
  have htrack : u.track k = settTrack (s.track k) (s.getX rs) := by rw [hu, dlySett_track]
  have hactive : u.status.active = false := by rw [hu, dlySett_eq, flagIf_status, setTrack_status, hdirect]
  have hlegal' : (u.track k).DelayLegal := by
    rw [htrack]
    exact settTrack_legal hlegal _
  rw [show currentLag (s.track k) = currentLag (u.track k) by rw [htrack, currentLag_settTrack]]
  obtain ⟨hdistance, hbound⟩ := retiming_distance hlegal'
  refine ⟨hdistance, hbound, fun m hm => ?_⟩
  obtain ⟨v, hrun, -, hretimed⟩ := exists_retimed rd hactive hlegal' m
  obtain ⟨-, -, -, hmin, hmax, -⟩ := (delayLegal_iff _).1 hretimed.legal
  refine ⟨v, hrun, hretimed.count, hretimed.shrinks hlegal' hm, hretimed.grows hlegal' hm, hmin, hmax, fun hend => ?_⟩
  have hdone := hretimed.count_eq_zero hend
  obtain ⟨hthere, hrate⟩ := currentLag_of_done hretimed.legal hdone
  exact ⟨by rw [hthere, hretimed.dlag], hrate, hdone⟩

end Sys2Proof.Proofs
end

section
/-! SUPPORT. REV.PROC (R195, R197): what each stage of the two chains gets as its input, and the state after some of the eight
stages have ticked. Each stage has a slot and an index of its own, so a tick finds both as they were before the command. -/

namespace Sys2Proof.Laws

open Sys2Proof Sys2Proof.Machine

/-! ## Frames -/

/-- A frame may list more than was changed. -/
theorem keeps_of_subset {s u : State} {regs regs' : List Reg} {tracks tracks' : List (Fin Config.NTRK)}
    {stored stored' : List (Nat × Nat)} (h : Keeps s u regs tracks stored) (hregs : regs ⊆ regs') (htracks : tracks ⊆ tracks')
    (hstored : stored ⊆ stored') : Keeps s u regs' tracks' stored' where
  regs r hr := h.regs r fun hmem => hr (hregs hmem)
  tracks k hk := h.tracks k fun hmem => hk (htracks hmem)
  bytes a ha := h.bytes a fun w hw => ha w (hstored hw)
  rest := h.rest

/-! ## The slots and the samples of a pass through the stages -/

/-- The slot of stage v at its index. -/
def stageSlot (s : State) (k : Fin Config.NTRK) (v : Fin Config.NSTAGE) : Nat := stageAddr k v (s.track k).apidx[v.val].toNat

/-- The output of stage v for input x: its slot's content minus the input (R161). -/
def stageOut (s : State) (k : Fin Config.NTRK) (v : Fin Config.NSTAGE) (x : F32) : F32 :=
  fsub (s.memRead .ap (stageSlot s k v)) x

/-- The stages a sample runs through before stage v, in the chain of v (R195). -/
def stagesBefore (v : Fin Config.NSTAGE) : List (Fin Config.NSTAGE) :=
  (if v < 4 then leftChain else rightChain).takeWhile (· != v)

/-- The input of stage v: the bus, run through the stages before (R197). -/
def stageInput (s : State) (k : Fin Config.NTRK) (v : Fin Config.NSTAGE) : F32 :=
  (stagesBefore v).foldl (fun x w => stageOut s k w x) (s.track k).rbus

/-- What stage v leaves in its slot (R161). -/
def stageStored (s : State) (k : Fin Config.NTRK) (v : Fin Config.NSTAGE) : F32 :=
  fadd (stageInput s k v) (fmul (s.memRead .ap (stageSlot s k v)) fHalf)

theorem stageInput_zero (s : State) (k : Fin Config.NTRK) : stageInput s k 0 = (s.track k).rbus := rfl

theorem stageInput_four (s : State) (k : Fin Config.NTRK) : stageInput s k 4 = (s.track k).rbus := rfl

/-- Within a chain, a stage gets the output of the one before. -/
theorem stageInput_succ (s : State) (k : Fin Config.NTRK) {v : Fin Config.NSTAGE} (hleft : v ≠ 3) (hright : v ≠ 7) :
    stageInput s k (v + 1) = stageOut s k v (stageInput s k v) := by
  have hbefore : ∀ v : Fin Config.NSTAGE, v ≠ 3 → v ≠ 7 → stagesBefore (v + 1) = stagesBefore v ++ [v] := by decide
  rw [stageInput, hbefore v hleft hright, List.foldl_append]
  rfl

/-- The bus run through the left chain: its stages' inputs in order, then the output of stage 3. -/
theorem leftChain_series (s : State) (k : Fin Config.NTRK) : leftChain.scanl (fun x v => stageOut s k v x) (s.track k).rbus =
    leftChain.map (stageInput s k) ++ [stageOut s k 3 (stageInput s k 3)] := rfl

/-- The bus run through the right chain: its stages' inputs in order, then the output of stage 7. -/
theorem rightChain_series (s : State) (k : Fin Config.NTRK) : rightChain.scanl (fun x v => stageOut s k v x) (s.track k).rbus =
    rightChain.map (stageInput s k) ++ [stageOut s k 7 (stageInput s k 7)] := rfl

theorem elementOf_stageSlot {s : State} {k : Fin Config.NTRK} (h : (s.track k).ReverbLegal) (v : Fin Config.NSTAGE) :
    ElementOf .ap (stageSlot s k v) := elementOf_stageAddr k (h v)

/-- Different stages have different slots. -/
theorem stageSlot_ne (s : State) (k : Fin Config.NTRK) {v w : Fin Config.NSTAGE} (h : v ≠ w) :
    stageSlot s k v ≠ stageSlot s k w := by
  have hv := (s.track k).apidx[v.val].isLt
  have hw := (s.track k).apidx[w.val].isLt
  have hne : v.val ≠ w.val := fun e => h (Fin.ext e)
  simp only [stageSlot, stageAddr]
  omega

/-! ## The state after some stages -/

/-- State u is as REV.PROC has left state s when the stages `done` have ticked: these have their slots written and their indices
advanced, the others have both as they were, and the bus is taken. -/
structure Ticked (s u : State) (k : Fin Config.NTRK) (done : List (Fin Config.NSTAGE)) : Prop where
  slots : ∀ v, u.memRead .ap (stageSlot s k v) = if v ∈ done then stageStored s k v else s.memRead .ap (stageSlot s k v)
  index : ∀ v : Fin Config.NSTAGE, (u.track k).apidx[v.val].toNat =
    if v ∈ done then ((s.track k).apidx[v.val].toNat + 1) % Config.REVLEN v else (s.track k).apidx[v.val].toNat
  track : u.track k = { s.track k with rbus := 0, apidx := (u.track k).apidx }
  err : u.err = s.err
  keeps : Keeps s u [] [k] (done.map fun v => wordArea .ap (stageSlot s k v))

/-- Taking the bus ticks no stage. -/
theorem ticked_takeBus (s : State) (k : Fin Config.NTRK) : Ticked s (s.setTrack k { s.track k with rbus := 0 }) k [] where
  slots _ := (if_neg List.not_mem_nil).symm
  index v := by rw [track_setTrack_same, if_neg List.not_mem_nil]
  track := by rw [track_setTrack_same]
  err := rfl
  keeps := keeps_setTrack ..

/-- One more stage ticks, which has not yet. -/
theorem Ticked.tick {s u : State} {k : Fin Config.NTRK} {done : List (Fin Config.NSTAGE)} (h : Ticked s u k done)
    (hlegal : (s.track k).ReverbLegal) {v : Fin Config.NSTAGE} (hnew : v ∉ done) :
    ∃ w, apfProc k v (stageInput s k v) u = .ok (stageOut s k v (stageInput s k v), w) ∧ Ticked s w k (done ++ [v]) := by
  have hindex : (u.track k).apidx[v.val].toNat = (s.track k).apidx[v.val].toNat := (h.index v).trans (if_neg hnew)
  have hcontent : u.wordAt .ap (stageSlot s k v) = s.memRead .ap (stageSlot s k v) := (h.slots v).trans (if_neg hnew)
  have hslot : stageAddr k v (s.track k).apidx[v.val].toNat = stageSlot s k v := rfl
  obtain ⟨y, w, hok⟩ := apfProc_of_index (hindex.symm ▸ hlegal v) (stageInput s k v)
  obtain ⟨-, hy, hw⟩ := apfProc_ok hok
  rw [hindex, hslot, hcontent] at hy hw
  subst hy hw
  refine ⟨_, hok, fun v' => ?_, fun v' => ?_, ?_, h.err, ?_⟩
  · rcases eq_or_ne v' v with rfl | hne
    · rw [if_pos (by simp)]
      exact wordAt_setWordAt_same ..
    · have hlt (v') := elementOf_lt (elementOf_stageSlot hlegal v')
      have hkept := wordAt_setWordAt_ne (sp := .ap) (sp' := .ap) u (stageStored s k v) (hlt v) (hlt v') rfl rfl
        (.inr (stageSlot_ne s k hne))
      exact (hkept.trans (h.slots v')).trans (if_congr (by simp [hne]) rfl rfl)
  · rw [track_setTrack_same]
    rcases eq_or_ne v' v with rfl | hne
    · rw [if_pos (by simp), setApidx_same, toNat_nextIndex]
    · rw [setApidx_ne _ _ hne, h.index v']
      exact if_congr (by simp [hne]) rfl rfl
  · rw [track_setTrack_same, h.track]
    rfl
  · rw [List.map_append]
    exact keeps_of_subset (keeps_setTrack_of_keeps (keeps_trans h.keeps (keeps_setWordAt ..)) k _) (by simp) (by simp) (by simp)

/-- Stages in series, each with the output of the one before as its input: y is what the last one puts out. -/
theorem Ticked.chain {s u : State} {k : Fin Config.NTRK} {done stages : List (Fin Config.NSTAGE)} {x y : F32}
    (h : Ticked s u k done) (hlegal : (s.track k).ReverbLegal)
    (hseries : stages.scanl (fun x v => stageOut s k v x) x = stages.map (stageInput s k) ++ [y])
    (hnew : (done ++ stages).Nodup) :
    ∃ w, apfChain k stages x u = .ok (y, w) ∧ Ticked s w k (done ++ stages) := by
  induction stages generalizing u done x with
  | nil =>
    obtain rfl : x = y := List.singleton_inj.1 hseries
    exact ⟨u, rfl, done.append_nil.symm ▸ h⟩
  | cons v stages ih =>
    rw [List.scanl_cons, List.map_cons, List.cons_append, List.cons_eq_cons] at hseries
    obtain ⟨rfl, hrest⟩ := hseries
    have hv : v ∉ done := fun hmem => List.disjoint_of_nodup_append hnew hmem List.mem_cons_self
    obtain ⟨u', htick, hticked⟩ := h.tick hlegal hv
    rw [List.append_cons] at hnew ⊢
    rw [apfChain, htick]
    exact ih hticked hrest hnew

/-- REV.PROC with the indices in range: both chains answer, and all eight stages have ticked (R197). -/
theorem revProc_of_legal {s : State} {k : Fin Config.NTRK} (h : (s.track k).ReverbLegal) :
    ∃ u, revProc k s = .ok ((stageOut s k 3 (stageInput s k 3), stageOut s k 7 (stageInput s k 7)), u) ∧
      Ticked s u k (List.finRange Config.NSTAGE) := by
  obtain ⟨s1, hleft, hs1⟩ := (ticked_takeBus s k).chain h (leftChain_series s k) (by decide)
  obtain ⟨s2, hright, hs2⟩ := hs1.chain h (rightChain_series s k) (by decide)
  refine ⟨s2, ?_, hs2⟩
  simp only [revProc, hleft, hright]

theorem exec_revProc {s u : State} {k : Fin Config.NTRK} {y : F32 × F32} (rd : Reg) (hdirect : s.status.active = false)
    (h : revProc k s = .ok (y, u)) : exec (.revProc rd (trackField k)) s = .next (u.setPair rd y) := by
  simp only [exec, execRevProc, onTrack_field, directOnly_of_direct _ _ hdirect, h]

end Sys2Proof.Laws
end

section
/-! PROOF. REV.PROC (O40). -/

namespace Sys2Proof.Proofs

open Sys2Proof Sys2Proof.Machine Sys2Proof.Laws

/-- Settles O40: with all eight stages ticked each slot and each index is as its own stage left it, and the pair is the outputs of
the last stage of each chain. -/
theorem reverbRunsBothChains : Obligations.ReverbRunsBothChains := by
  intro s k rd hdirect hlegal
  obtain ⟨u, hrev, hu⟩ := revProc_of_legal hlegal
  refine ⟨_, stageInput s k, exec_revProc rd hdirect hrev, stageInput_zero s k, stageInput_four s k,
    fun _ hleft hright => stageInput_succ s k hleft hright, getX_setPair_fst .., getX_setPair_snd ..,
    fun v => (hu.slots v).trans (if_pos (List.mem_finRange v)), fun v => (hu.index v).trans (if_pos (List.mem_finRange v)),
    hu.track, hu.err, keeps_of_subset (keeps_trans hu.keeps (onlyX_setPair ..).1) (by simp) (by simp) (by simp [stageSlot])⟩

end Sys2Proof.Proofs
end

section
/-! SUPPORT. VOX.TRIG and VOX.OFF (R209, R210): each replaces the registers of one track, and a trigger that does not slide may flag
CLAMP through OSC.SETF. -/

namespace Sys2Proof.Laws

open Sys2Proof Sys2Proof.Machine

/-! ## OSC.SETF on a track just replaced -/

theorem setTrack_flagIf_setTrack (s : State) (k : Fin Config.NTRK) (tr tr' : Track) (hit : Bool) (c : Condition) :
    ((s.setTrack k tr).flagIf hit c).setTrack k tr' = (s.setTrack k tr').flagIf hit c := by
  cases hit <;> simp [State.flagIf, State.flag, State.setTrack]

theorem seekUp_congr {s u : State} (h : ∀ n, u.ft n = s.ft n) (f : F32) (rounds i : Nat) :
    seekUp u f rounds i = seekUp s f rounds i := by
  induction rounds generalizing i with
  | zero => rfl
  | succ rounds ih => rw [seekUp, seekUp, h, ih]

theorem seekDown_congr {s u : State} (h : ∀ n, u.ft n = s.ft n) (f : F32) (i : Nat) : seekDown u f i = seekDown s f i := by
  induction i with
  | zero => rfl
  | succ i ih => rw [seekDown, seekDown, h, ih]

/-- The seek reads nothing but FT (R140). -/
theorem seekTable_congr {s u : State} (h : ∀ n, u.ft n = s.ft n) (f : F32) (i : BitVec 7) :
    seekTable u f i = seekTable s f i := by
  rw [seekTable, seekUp_congr h, seekDown_congr h, seekTable]

/-- A track set to a frequency as OSC.SETF does (R140). -/
def tuned (s : State) (tr : Track) (f : F32) : Track :=
  { tr with ofreq := clampf f 0 f22050, oinc := fdiv (clampf f 0 f22050) f44100, owti := seekTable s (clampf f 0 f22050) tr.owti }

theorem oscSetf_setTrack (s : State) (k : Fin Config.NTRK) (tr : Track) (f : F32) :
    oscSetf k f (s.setTrack k tr) = (s.setTrack k (tuned s tr f)).flagIf (clampfHit f 0 f22050) .clamp := by
  rw [oscSetf, setTrack_setTrack, track_setTrack_same, seekTable_congr (setTrack_ft s k tr)]
  rfl

/-! ## VOX.TRIG -/

/-- The pitch of a note, as an index of FT (R209). -/
theorem pitchOf_eq (root : BitVec 7) (note : BitVec 8) :
    pitchOf root note = (max 0 (min 127 ((root.toNat : Int) + note.toInt))).toNat := by
  rw [pitchOf]
  omega

/-- The frequency a trigger takes from FT (R209). -/
def triggerFreq (s : State) (k : Fin Config.NTRK) (note : BitVec 8) : F32 := s.ft (pitchOf (s.track k).root note)

/-- The registers of a sounding track after a slide: its gate stays open (R209). -/
def slidTo (tr : Track) (f amp : F32) : Track := { startGlide tr f with amp := amp }

/-- The registers of a track after a trigger that does not slide (R209). -/
def restarted (s : State) (tr : Track) (f amp : F32) : Track :=
  { tuned s (startNote tr f) f with
    amp := amp, spos := if tr.kind = .sampler then 0 else tr.spos, gate := true }

theorem restartSampler_eq (k : Fin Config.NTRK) (s : State) : restartSampler k s =
    s.setTrack k { s.track k with spos := if (s.track k).kind = .sampler then 0 else (s.track k).spos } := by
  cases hkind : (s.track k).kind with
  | sampler => rw [restartSampler, hkind, if_pos rfl, smpTrig]
  | wavetable =>
    rw [if_neg (by decide), restartSampler, hkind]
    exact (setTrack_track s k).symm

theorem voxTrig_of_slide {k : Fin Config.NTRK} {s : State} (note : BitVec 8) (accent : Bool) (hgate : (s.track k).gate = true) :
    voxTrig k note accent true s =
      s.setTrack k (slidTo (s.track k) (triggerFreq s k note) (noteAmp (s.track k) accent)) := by
  simp only [voxTrig, hgate, Bool.and_self, if_true, setTrack_setTrack, track_setTrack_same]
  rw [← hgate]
  rfl

theorem voxTrig_of_restart {k : Fin Config.NTRK} {s : State} (note : BitVec 8) (accent : Bool) {slide : Bool}
    (h : slide = false ∨ (s.track k).gate = false) : voxTrig k note accent slide s =
      (s.setTrack k (restarted s (s.track k) (triggerFreq s k note) (noteAmp (s.track k) accent))).flagIf
        (clampfHit (triggerFreq s k note) 0 f22050) .clamp := by
  have hno : ¬(slide && (s.track k).gate) = true := by
    rcases h with h | h <;> simp [h]
  simp only [voxTrig, if_neg hno, restartSampler_eq, oscSetf_setTrack, setTrack_flagIf_setTrack, flagIf_track, track_setTrack_same]
  rfl

/-- A trigger slides or restarts. -/
theorem slides_or_restarts (slide gate : Bool) : slide = true ∧ gate = true ∨ (slide = false ∨ gate = false) := by
  cases slide <;> cases gate <;> simp

theorem keeps_voxTrig (k : Fin Config.NTRK) (note : BitVec 8) (accent slide : Bool) (s : State) :
    Keeps s (voxTrig k note accent slide s) [] [k] [] := by
  rcases slides_or_restarts slide (s.track k).gate with ⟨rfl, hgate⟩ | h
  · rw [voxTrig_of_slide note accent hgate]
    exact keeps_setTrack ..
  · rw [voxTrig_of_restart note accent h]
    exact keeps_setTrack_flagIf ..

theorem exec_voxTrig (k : Fin Config.NTRK) (note : BitVec 8) (accent slide : Bool) {s : State} (h : s.status.active = false) :
    exec (.voxTrig (trackField k) note accent slide) s = .next (voxTrig k note accent slide s) := by
  simp only [exec, execVoxTrig, onTrack_field, directOnly_of_direct _ _ h]

/-! ## VOX.OFF and the flags of the engine -/

theorem exec_voxOff (k : Fin Config.NTRK) {s : State} (h : s.status.active = false) :
    exec (.voxOff (trackField k)) s = .next (voxOff k s) := by
  simp only [exec, execVoxOff, onTrack_field, directOnly_of_direct _ _ h]

theorem voxOff_track (k : Fin Config.NTRK) (s : State) : (voxOff k s).track k = { s.track k with gate := false } :=
  track_setTrack_same ..

theorem keeps_voxOff (k : Fin Config.NTRK) (s : State) : Keeps s (voxOff k s) [] [k] [] := keeps_setTrack ..

/-- An engine command passes its check while RUNNING (R231 to R233). -/
theorem whenRunning_of_running (i : Instr) {s : State} (run : Result) (h : s.status.running = true) : whenRunning i s run = run :=
  if_pos h

end Sys2Proof.Laws
end

section
/-! PROOF. VOX.TRIG (O44), and the commands of one flag (O53). -/

namespace Sys2Proof.Proofs

open Sys2Proof Sys2Proof.Machine Sys2Proof.Laws

/-- Settles O44: a trigger is one new set of registers for its track, which of the two decided by SLIDE and GATE. -/
theorem triggerSlidesOrRestarts : Obligations.TriggerSlidesOrRestarts := by
  intro s k note accent slide hdirect
  have hfreq : triggerFreq s k note =
      s.memRead .ft (max 0 (min 127 (((s.track k).root.toNat : Int) + note.toInt))).toNat := by
    rw [triggerFreq, pitchOf_eq]
    rfl
  refine ⟨_, triggerFreq s k note, noteAmp (s.track k) accent, exec_voxTrig k note accent slide hdirect, hfreq, rfl,
    keeps_voxTrig .., ?_, fun hrestart => ?_⟩
  · rintro rfl hgate
    rw [voxTrig_of_slide note accent hgate]
    exact ⟨rfl, track_setTrack_same ..⟩
  · rw [voxTrig_of_restart note accent hrestart]
    exact ⟨errClamped_eq .., (flagIf_track ..).trans (track_setTrack_same ..)⟩

/-- Settles O53: each command passes its check and then changes its flag only. -/
theorem flagCommandsChangeOneFlag : Obligations.FlagCommandsChangeOneFlag :=
  ⟨fun _ hrun => ⟨whenRunning_of_running _ _ hrun, whenRunning_of_running _ _ hrun, whenRunning_of_running _ _ hrun⟩,
    fun s k hdirect => ⟨_, exec_voxOff k hdirect, voxOff_track k s, rfl, keeps_voxOff k s⟩⟩

end Sys2Proof.Proofs
end

section
/-! SUPPORT. SEQ.TICK (R206): what a boundary reads of the pattern, and where the counter and the step stand after some ticks. -/

namespace Sys2Proof.Laws

open Sys2Proof Sys2Proof.Machine

/-! ## The slot a boundary plays -/

/-- A flag of a slot is set when its element reads as 1 (R61, R66). -/
theorem patternFlag_eq {sp : Space} (hsp : sp = .pp ∨ sp = .pa ∨ sp = .ps) (s : State) (k : Fin Config.NTRK) (q : BitVec 4) :
    s.patternFlag sp k q = (s.memRead sp (patternAddr k q) == 1) := by
  have hbit : ∀ b : Byte, b.getLsbD 0 = ((b.extractLsb' 0 1).setWidth 32 == (1 : Word)) := by decide
  rcases hsp with rfl | rfl | rfl <;> exact hbit _

/-- The note of a slot is the low byte of what its element reads as (R61, R66). -/
theorem byteAt_pn_eq (s : State) (a : Nat) : s.byteAt .pn a = (s.memRead .pn a).setWidth 8 := by
  have hbyte : ∀ b : Byte, b = (b.signExtend 32).setWidth 8 := by decide
  exact hbyte _

theorem playSlot_of_paused {s : State} {k : Fin Config.NTRK} {q : BitVec 4} (h : s.memRead .pp (patternAddr k q) = 1) :
    playSlot k q s = voxOff k s := by
  rw [playSlot, patternFlag_eq (.inl rfl), h]
  rfl

theorem playSlot_of_sounding {s : State} {k : Fin Config.NTRK} {q : BitVec 4} (h : s.memRead .pp (patternAddr k q) = 0) :
    playSlot k q s = voxTrig k ((s.memRead .pn (patternAddr k q)).setWidth 8) (s.memRead .pa (patternAddr k q) == 1)
      (s.memRead .ps (patternAddr k q) == 1) s := by
  rw [playSlot, patternFlag_eq (.inl rfl), patternFlag_eq (.inr (.inl rfl)), patternFlag_eq (.inr (.inr rfl)), byteAt_pn_eq, h]
  rfl

theorem keeps_playSlot (k : Fin Config.NTRK) (q : BitVec 4) (s : State) : Keeps s (playSlot k q s) [] [k] [] := by
  unfold playSlot
  split
  · exact keeps_voxOff k s
  · exact keeps_voxTrig k _ _ _ s

/-- Playing a slot leaves the tempo, which is the host's (R241). -/
theorem playSlot_sps (k : Fin Config.NTRK) (q : BitVec 4) (s : State) : ((playSlot k q s).track k).sps = (s.track k).sps := by
  have hinit := initialTrack_of_unitChanges ((playSlot_unitFrame k q s).tracks k)
  have hsps := congrArg Track.sps hinit
  exact hsps

/-! ## One tick -/

theorem exec_seqTick (k : Fin Config.NTRK) {s : State} (h : s.status.active = false) :
    exec (.seqTick (trackField k)) s = .next (seqTick k s) := by
  simp only [exec, execSeqTick, onTrack_field, directOnly_of_direct _ _ h]

theorem seqTick_track_of_between {k : Fin Config.NTRK} {s : State} (h : (s.track k).scnt ≠ 0) :
    (seqTick k s).track k = { s.track k with scnt := (s.track k).scnt - 1 } := by
  rw [seqTick_of_between h, track_setTrack_same]

theorem seqTick_track_of_boundary {k : Fin Config.NTRK} {s : State} (h : (s.track k).scnt = 0) :
    (seqTick k s).track k = { (playSlot k (s.track k).step s).track k with
      step := (s.track k).step + 1, scnt := (s.track k).sps - 1 } := by
  rw [seqTick_of_boundary h, track_setTrack_same, playSlot_sps]

theorem keeps_seqTick (k : Fin Config.NTRK) (s : State) : Keeps s (seqTick k s) [] [k] [] := by
  by_cases h : (s.track k).scnt = 0
  · rw [seqTick_of_boundary h]
    exact keeps_of_subset (keeps_setTrack_of_keeps (keeps_playSlot k _ s) k _) (by simp) (by simp) (by simp)
  · rw [seqTick_of_between h]
    exact keeps_setTrack ..

/-! ## The beat -/

/-- State u is as n ticks leave a state s that stood at a boundary of slot 0: m boundaries have passed, and SCNT is what is left to
the next one (R211). -/
structure OnBeat (s u : State) (k : Fin Config.NTRK) (n m : Nat) : Prop where
  direct : u.status.active = false
  sps : (u.track k).sps = (s.track k).sps
  next : n + (u.track k).scnt.toNat = m * (s.track k).sps.toNat
  step : (u.track k).step.toNat = m % 16
  below : (u.track k).scnt.toNat < (s.track k).sps.toNat

theorem onBeat_zero {s : State} {k : Fin Config.NTRK} (hdirect : s.status.active = false) (hscnt : (s.track k).scnt = 0)
    (hstep : (s.track k).step = 0) (hsps : 0 < (s.track k).sps.toNat) : OnBeat s s k 0 0 where
  direct := hdirect
  sps := rfl
  next := by simp [hscnt]
  step := by simp [hstep]
  below := by simpa [hscnt] using hsps

/-- One more tick: it counts down, or is boundary m and reloads SCNT. -/
theorem OnBeat.tick {s u : State} {k : Fin Config.NTRK} {n m : Nat} (h : OnBeat s u k n m) :
    ∃ m', OnBeat s (seqTick k u) k (n + 1) m' := by
  have hdirect : (seqTick k u).status.active = false := by rw [status_of_keeps (keeps_seqTick k u), h.direct]
  obtain ⟨-, hsps, hnext, hstep, hbelow⟩ := h
  by_cases hscnt : (u.track k).scnt = 0
  · have htrack := seqTick_track_of_boundary hscnt
    have hcount : ((u.track k).sps - 1).toNat = (s.track k).sps.toNat - 1 := by
      rw [hsps]
      bv_omega
    have hzero : (u.track k).scnt.toNat = 0 := by rw [hscnt]; rfl
    refine ⟨m + 1, hdirect, ?_, ?_, ?_, ?_⟩ <;> rw [htrack]
    · exact (playSlot_sps ..).trans hsps
    · rw [hcount, Nat.succ_mul]
      omega
    · bv_omega
    · rw [hcount]
      omega
  · have htrack := seqTick_track_of_between hscnt
    have hcount : ((u.track k).scnt - 1).toNat + 1 = (u.track k).scnt.toNat := by bv_omega
    refine ⟨m, hdirect, ?_, ?_, ?_, ?_⟩ <;> rw [htrack]
    · exact hsps
    · change n + 1 + ((u.track k).scnt - 1).toNat = _
      omega
    · exact hstep
    · exact (Nat.lt_of_succ_le hcount.le).trans hbelow

theorem exists_onBeat {s : State} {k : Fin Config.NTRK} (h : OnBeat s s k 0 0) (n : Nat) :
    ∃ u m, runCommands (List.replicate n (.seqTick (trackField k))) s = .next u ∧ OnBeat s u k n m := by
  induction n with
  | zero => exact ⟨s, 0, rfl, h⟩
  | succ n ih =>
    obtain ⟨u, m, hrun, hu⟩ := ih
    obtain ⟨m', hu'⟩ := hu.tick
    exact ⟨_, m', runCommands_replicate_succ hrun (exec_seqTick k hu.direct), hu'⟩

/-- SCNT is 0 exactly at the multiples of SPS. -/
theorem OnBeat.scnt_eq_zero_iff {s u : State} {k : Fin Config.NTRK} {n m : Nat} (h : OnBeat s u k n m) :
    (u.track k).scnt = 0 ↔ (s.track k).sps.toNat ∣ n := by
  have hdvd : (s.track k).sps.toNat ∣ n + (u.track k).scnt.toNat := h.next ▸ Nat.dvd_mul_left ..
  rw [← BitVec.toNat_inj]
  constructor
  · intro hzero
    rwa [hzero] at hdvd
  · exact fun hn => Nat.eq_zero_of_dvd_of_lt ((Nat.dvd_add_right hn).1 hdvd) h.below

/-- At a multiple of SPS the boundaries passed are its multiples below. -/
theorem OnBeat.step_of_dvd {s u : State} {k : Fin Config.NTRK} {n m : Nat} (h : OnBeat s u k n m)
    (hn : (s.track k).sps.toNat ∣ n) : (u.track k).step.toNat = n / (s.track k).sps.toNat % 16 := by
  have hzero : (u.track k).scnt.toNat = 0 := by rw [h.scnt_eq_zero_iff.2 hn]; rfl
  have hnext : n = m * (s.track k).sps.toNat := by rw [← h.next, hzero, Nat.add_zero]
  have hpos : 0 < (s.track k).sps.toNat := (Nat.zero_le _).trans_lt h.below
  rw [h.step, hnext, Nat.mul_div_cancel m hpos]

end Sys2Proof.Laws
end

section
/-! PROOF. SEQ.TICK (O41) and the beat (O42). -/

namespace Sys2Proof.Proofs

open Sys2Proof Sys2Proof.Machine Sys2Proof.Laws

/-- Settles O41: a boundary plays its slot as VOX.OFF or VOX.TRIG does and then replaces STEP and SCNT of that track. -/
theorem seqTickPlaysSlots : Obligations.SeqTickPlaysSlots := by
  refine fun s k hdirect => ⟨fun hpos => ?_, fun hzero => ?_⟩
  · have hne : (s.track k).scnt ≠ 0 := by
      intro hzero
      rw [hzero] at hpos
      exact absurd hpos (by decide)
    refine ⟨_, exec_seqTick k hdirect, seqTick_track_of_between hne, ?_, keeps_seqTick k s⟩
    rw [seqTick_of_between hne]
    rfl
  · refine ⟨_, playSlot k (s.track k).step s, exec_seqTick k hdirect, fun hpaused => ?_, fun hsounding => ?_, ?_, fun hsps => ?_,
      ?_, keeps_seqTick k s⟩
    · rw [playSlot_of_paused hpaused, exec_voxOff k hdirect]
    · rw [playSlot_of_sounding hsounding]
      exact exec_voxTrig k _ _ _ hdirect
    · rw [seqTick_track_of_boundary hzero]
    · rw [seqTick_track_of_boundary hzero]
      bv_omega
    · rw [seqTick_of_boundary hzero]
      rfl

/-- Settles O42, by induction on the number of ticks: ticks done and ticks left to the next boundary are always a multiple of
SPS. -/
theorem boundariesEverySpsTicks : Obligations.BoundariesEverySpsTicks := by
  intro s k n hdirect hscnt hstep hsps
  obtain ⟨u, m, hrun, hu⟩ := exists_onBeat (onBeat_zero hdirect hscnt hstep hsps) n
  exact ⟨u, hrun, hu.sps, hu.scnt_eq_zero_iff, hu.step_of_dvd⟩

end Sys2Proof.Proofs
end

section
/-! SUPPORT. VOX.TICK (R213, R214): the glide, the source, the high-pass unit and the four results. -/

namespace Sys2Proof.Laws

open Sys2Proof Sys2Proof.Machine

/-! ## The four results -/

theorem reg_ne_of_quad (rd : Reg) :
    rd ≠ rd + 1 ∧ rd ≠ rd + 2 ∧ rd ≠ rd + 3 ∧ rd + 1 ≠ rd + 2 ∧ rd + 1 ≠ rd + 3 ∧ rd + 2 ≠ rd + 3 := by
  revert rd; decide

/-- A result quadruple goes into its four registers (R97). -/
theorem getX_setQuad (s : State) (rd : Reg) (v : Voice) :
    (s.setQuad rd v).getX rd = v.dryL ∧ (s.setQuad rd v).getX (rd + 1) = v.dryR ∧
    (s.setQuad rd v).getX (rd + 2) = v.delaySend ∧ (s.setQuad rd v).getX (rd + 3) = v.reverbSend := by
  obtain ⟨h01, h02, h03, h12, h13, h23⟩ := reg_ne_of_quad rd
  refine ⟨?_, ?_, ?_, getX_setX_same ..⟩ <;> rw [State.setQuad]
  · rw [getX_setX_ne _ _ h03, getX_setX_ne _ _ h02, getX_setX_ne _ _ h01, getX_setX_same]
  · rw [getX_setX_ne _ _ h13, getX_setX_ne _ _ h12, getX_setX_same]
  · rw [getX_setX_ne _ _ h23, getX_setX_same]

theorem keeps_setQuad {s u : State} {regs : List Reg} {tracks : List (Fin Config.NTRK)} {stored : List (Nat × Nat)}
    (h : Keeps s u regs tracks stored) (rd : Reg) (v : Voice) :
    Keeps s (u.setQuad rd v) ([rd + 3, rd + 2, rd + 1, rd] ++ regs) tracks stored :=
  keeps_setX (keeps_setX (keeps_setX (keeps_setX h ..) ..) ..) ..

/-! ## The glide -/

/-- The pitch a tick of a glide takes: the last one takes the target exactly (R213). -/
def glidePitch (tr : Track) : F32 := if tr.gcnt = 1 then tr.ftgt else fadd tr.fcur tr.ginc

/-- The registers of a track before a glide's tick runs OSC.SETF (R214). -/
def glideStep (tr : Track) : Track := { tr with gcnt := tr.gcnt - 1, fcur := glidePitch tr }

theorem glideTick_of_resting {k : Fin Config.NTRK} {s : State} (h : (s.track k).gcnt = 0) : glideTick k s = s :=
  if_neg (by rw [h]; decide)

theorem glideTick_of_gliding {k : Fin Config.NTRK} {s : State} (h : (s.track k).gcnt ≠ 0) :
    glideTick k s = oscSetf k (glidePitch (s.track k)) (s.setTrack k (glideStep (s.track k))) :=
  if_pos (by bv_omega)

theorem glideTick_track_of_gliding {k : Fin Config.NTRK} {s : State} (h : (s.track k).gcnt ≠ 0) :
    (glideTick k s).track k = tuned s (glideStep (s.track k)) (glidePitch (s.track k)) := by
  rw [glideTick_of_gliding h, oscSetf_setTrack, flagIf_track, track_setTrack_same]

/-- All a glide changes of its track. -/
theorem glideTick_track (k : Fin Config.NTRK) (s : State) : (glideTick k s).track k =
    { s.track k with
      gcnt := ((glideTick k s).track k).gcnt, fcur := ((glideTick k s).track k).fcur, ofreq := ((glideTick k s).track k).ofreq
      oinc := ((glideTick k s).track k).oinc, owti := ((glideTick k s).track k).owti } := by
  by_cases h : (s.track k).gcnt = 0
  · rw [glideTick_of_resting h]
  · rw [glideTick_track_of_gliding h]
    rfl

theorem keeps_glideTick (k : Fin Config.NTRK) (s : State) : Keeps s (glideTick k s) [] [k] [] := by
  by_cases h : (s.track k).gcnt = 0
  · have hsame := keeps_setTrack s k (s.track k)
    rw [setTrack_track] at hsame
    rwa [glideTick_of_resting h]
  · rw [glideTick_of_gliding h, oscSetf_setTrack]
    exact keeps_setTrack_flagIf ..

/-! ## The source -/

/-- The oscillator and the sampler are where their ticks answer (R37, R145, R148). -/
abbrev SourceLegal (tr : Track) : Prop := tr.OscLegal ∧ tr.SamplerLegal

theorem unitChange_sourceLegal {tr tr' : Track} (hchange : UnitChange tr tr') (h : SourceLegal tr) : SourceLegal tr' := by
  obtain ⟨hosc, hend, hpos⟩ := h
  refine ⟨unitChange_oscLegal hchange hosc, ?_⟩
  cases hchange with
  | rewind => exact ⟨hend, Nat.zero_le _⟩
  | sample hlt =>
    have hnext : (tr.spos + 1).toNat ≤ tr.slen.toNat := by bv_omega
    exact ⟨hend, hnext⟩
  | voice | tune | phase | stage | highPass | delay | bus | boundary | countDown => exact ⟨hend, hpos⟩

/-- No unit operation of the agent leaves these ranges. -/
theorem UnitFrame.sourceLegal {s u : State} (h : UnitFrame s u) {k : Fin Config.NTRK} (hlegal : SourceLegal (s.track k)) :
    SourceLegal (u.track k) := by
  have hchanges := h.tracks k
  generalize u.track k = tr at hchanges ⊢
  induction hchanges with
  | refl => exact hlegal
  | tail _ hstep ih => exact unitChange_sourceLegal hstep ih

theorem oscTick_of_legal {k : Fin Config.NTRK} {s : State} (h : (s.track k).OscLegal) :
    ∃ raw, oscTick k s =
      .ok (raw, s.setTrack k { s.track k with ophase := nextPhase (s.track k).ophase (s.track k).oinc }) := by
  obtain ⟨i, hindex, -⟩ := tableRead_of_oscLegal h
  exact ⟨tableSample s (s.track k).owti i (fsub (tablePosition (s.track k)) (i2f i)), by simp only [oscTick, hindex]⟩

theorem smpTick_of_legal {k : Fin Config.NTRK} {s : State} (h : (s.track k).SamplerLegal) :
    ∃ raw q, smpTick k s = .ok (raw, s.setTrack k { s.track k with spos := q }) := by
  obtain ⟨hend, -⟩ := h
  by_cases hlt : (s.track k).spos.toNat < (s.track k).slen.toNat
  · have hinside : (s.track k).sbase.toNat + (s.track k).spos.toNat < Config.SMEMLEN := by omega
    exact ⟨s.wordAt .sm ((s.track k).sbase.toNat + (s.track k).spos.toNat), (s.track k).spos + 1,
      by simp only [smpTick, if_pos hlt, if_pos hinside]⟩
  · refine ⟨0, (s.track k).spos, ?_⟩
    rw [setTrack_track]
    exact if_neg hlt

/-- A source in its ranges answers, and moves the phase or the position of its own track. -/
theorem sourceTick_of_legal {k : Fin Config.NTRK} {s : State} (h : SourceLegal (s.track k)) :
    ∃ raw p q, sourceTick k s = .ok (raw, s.setTrack k { s.track k with ophase := p, spos := q }) := by
  obtain ⟨hosc, hsampler⟩ := h
  cases hkind : (s.track k).kind with
  | wavetable =>
    obtain ⟨raw, htick⟩ := oscTick_of_legal hosc
    have hsource : sourceTick k s = oscTick k s := by rw [sourceTick, hkind]
    exact ⟨raw, _, (s.track k).spos, hsource.trans htick⟩
  | sampler =>
    obtain ⟨raw, q, htick⟩ := smpTick_of_legal hsampler
    have hsource : sourceTick k s = smpTick k s := by rw [sourceTick, hkind]
    exact ⟨raw, (s.track k).ophase, q, hsource.trans htick⟩

/-- The source KIND selects is ticked as its own command does it (R214). -/
theorem exec_of_sourceTick {k : Fin Config.NTRK} {s u : State} {raw : F32} (rd : Reg) (hdirect : s.status.active = false)
    (h : sourceTick k s = .ok (raw, u)) :
    ((s.track k).kind = .wavetable → exec (.oscTick rd (trackField k)) s = .next (u.setX rd raw)) ∧
    ((s.track k).kind = .sampler → exec (.smpTick rd (trackField k)) s = .next (u.setX rd raw)) := by
  constructor <;> intro hkind <;> simp only [sourceTick, hkind] at h
  · simp only [exec, execOscTick, onTrack_field, directOnly_of_direct _ _ hdirect, h, resultToX]
  · simp only [exec, execSmpTick, onTrack_field, directOnly_of_direct _ _ hdirect, h, resultToX]

/-! ## The voice -/

theorem exec_voxTick {k : Fin Config.NTRK} {s u : State} {v : Voice} (rd : Reg) (hdirect : s.status.active = false)
    (h : voxTick k s = .ok (v, u)) : exec (.voxTick rd (trackField k)) s = .next (u.setQuad rd v) := by
  simp only [exec, execVoxTick, onTrack_field, directOnly_of_direct _ _ hdirect, h]

/-- A glide leaves what the filter, KIND, the gate and the sends read. -/
theorem glideTick_track_voice (k : Fin Config.NTRK) (s : State) (filtered : F32) :
    ((glideTick k s).track k).hpf = (s.track k).hpf ∧ ((glideTick k s).track k).kind = (s.track k).kind ∧
      voiceOut ((glideTick k s).track k) filtered = voiceOut (s.track k) filtered := by
  rw [glideTick_track]
  exact ⟨rfl, rfl, rfl⟩

/-- The track after a tick of the voice: the glide's, with the phase and the position p and q that the source leaves and unit 2
after the sample `raw` (R214). -/
def voicedTrack (k : Fin Config.NTRK) (s : State) (raw p : F32) (q : Word) : Track :=
  { (glideTick k s).track k with
    ophase := p, spos := q, hpf := (s.track k).hpf.set 2 (highPassTick (s.track k).hpf[2] raw) }

theorem voicedTrack_hpf_two (k : Fin Config.NTRK) (s : State) (raw p : F32) (q : Word) :
    (voicedTrack k s raw p q).hpf[2] = highPassTick (s.track k).hpf[2] raw := setHpf_same (s.track k) 2 _

theorem voicedTrack_hpf_ne {v : Fin Config.NHPF} (hv : v ≠ 2) (k : Fin Config.NTRK) (s : State) (raw p : F32) (q : Word) :
    (voicedTrack k s raw p q).hpf[v.val] = (s.track k).hpf[v.val] := setHpf_ne (s.track k) _ hv

/-- A voice with its source in range answers: one track is replaced beside the glide's flag (R214). -/
theorem voxTick_of_legal {k : Fin Config.NTRK} {s : State} (h : SourceLegal (s.track k)) :
    ∃ raw p q,
      sourceTick k (glideTick k s) =
        .ok (raw, (glideTick k s).setTrack k { (glideTick k s).track k with ophase := p, spos := q }) ∧
      voxTick k s = .ok (voiceOut (s.track k) (highPassOut (s.track k).hpf[2] raw),
        (glideTick k s).setTrack k (voicedTrack k s raw p q)) := by
  obtain ⟨raw, p, q, hsource⟩ := sourceTick_of_legal ((glideTick_unitFrame k s).sourceLegal h)
  obtain ⟨hhpf, -, hvoice⟩ := glideTick_track_voice k s (highPassOut (s.track k).hpf[2] raw)
  refine ⟨raw, p, q, hsource, ?_⟩
  rw [← hvoice, voicedTrack, ← hhpf]
  simp only [voxTick, hsource, hpfProc, track_setTrack_same, setTrack_setTrack]
  rfl

/-! ## A glide to its end -/

/-- A tick of a gliding voice in range: the count falls by 1, the target stays, and the last tick arrives (R213). -/
theorem exists_voxTick_of_gliding {k : Fin Config.NTRK} {s : State} (rd : Reg) (hdirect : s.status.active = false)
    (hlegal : SourceLegal (s.track k)) (hgliding : (s.track k).gcnt ≠ 0) :
    ∃ u, exec (.voxTick rd (trackField k)) s = .next u ∧ u.status.active = false ∧ SourceLegal (u.track k) ∧
      (u.track k).gcnt = (s.track k).gcnt - 1 ∧ (u.track k).ftgt = (s.track k).ftgt ∧
      ((s.track k).gcnt = 1 → (u.track k).fcur = (s.track k).ftgt ∧ (u.track k).ofreq = clampf (s.track k).ftgt 0 f22050) := by
  obtain ⟨raw, p, q, -, htick⟩ := voxTick_of_legal hlegal
  have hlegal' := (voxTick_unitFrame htick).sourceLegal hlegal
  have hdirect' : (glideTick k s).status.active = false := by rw [status_of_keeps (keeps_glideTick k s), hdirect]
  refine ⟨_, exec_voxTick rd hdirect htick, hdirect', hlegal', ?_⟩
  rw [setQuad_track, track_setTrack_same, voicedTrack, glideTick_track_of_gliding hgliding]
  refine ⟨rfl, rfl, fun hlast => ?_⟩
  have hpitch : glidePitch (s.track k) = (s.track k).ftgt := if_pos hlast
  rw [hpitch]
  exact ⟨hpitch, rfl⟩

/-- n + 1 ticks of a voice with that many to go end its glide. -/
theorem exists_glide_end {k : Fin Config.NTRK} {s : State} (rd : Reg) (n : Nat) (hdirect : s.status.active = false)
    (hlegal : SourceLegal (s.track k)) (hcount : (s.track k).gcnt.toNat = n + 1) :
    ∃ u, runCommands (List.replicate (n + 1) (.voxTick rd (trackField k))) s = .next u ∧ (u.track k).gcnt = 0 ∧
      (u.track k).fcur = (s.track k).ftgt ∧ (u.track k).ofreq = clampf (s.track k).ftgt 0 f22050 := by
  induction n generalizing s with
  | zero =>
    have hone : (s.track k).gcnt = 1 := by bv_omega
    obtain ⟨u, hexec, -, -, hgcnt, -, hlast⟩ := exists_voxTick_of_gliding rd hdirect hlegal (by bv_omega)
    refine ⟨u, runCommands_cons hexec, ?_, hlast hone⟩
    rw [hgcnt, hone]
    rfl
  | succ n ih =>
    obtain ⟨u, hexec, hdirect', hlegal', hgcnt, hftgt, -⟩ := exists_voxTick_of_gliding rd hdirect hlegal (by bv_omega)
    obtain ⟨w, hrun, hend⟩ := ih hdirect' hlegal' (by bv_omega)
    rw [hftgt] at hend
    exact ⟨w, (runCommands_cons hexec).trans hrun, hend⟩

end Sys2Proof.Laws
end

section
/-! PROOF. VOX.TICK (O45) and the end of a glide (O46). -/

namespace Sys2Proof.Proofs

open Sys2Proof Sys2Proof.Machine Sys2Proof.Laws

/-- Settles O45: unit 2, the gate and the sends read registers that neither the glide nor the source changes, so they find them as
they were before the command. -/
theorem voiceTickMakesFourResults : Obligations.VoiceTickMakesFourResults := by
  intro s k rd hdirect hosc hsampler
  obtain ⟨raw, p, q, hsource, htick⟩ := voxTick_of_legal ⟨hosc, hsampler⟩
  obtain ⟨-, hkind, -⟩ := glideTick_track_voice k s 0
  have hdirect' : (glideTick k s).status.active = false := by rw [status_of_keeps (keeps_glideTick k s), hdirect]
  obtain ⟨hwavetable, hsample⟩ := exec_of_sourceTick rd hdirect' hsource
  obtain ⟨h0, h1, h2, h3⟩ := getX_setQuad ((glideTick k s).setTrack k (voicedTrack k s raw p q)) rd
    (voiceOut (s.track k) (highPassOut (s.track k).hpf[2] raw))
  refine ⟨_, glideTick k s, _, highPassOut (s.track k).hpf[2] raw, _, exec_voxTick rd hdirect htick, glideTick_of_resting,
    glideTick_of_gliding, fun hw => hwavetable (hkind.trans hw), fun hs => hsample (hkind.trans hs), ?_, rfl, h0, h1, h2, h3, ?_⟩
  · rw [getX_setX_same]
    rfl
  rw [setQuad_track, setX_track, track_setTrack_same, track_setTrack_same, getX_setX_same]
  refine ⟨voicedTrack_hpf_two .., ?_, ?_, rfl, rfl, ?_⟩
  · exact voicedTrack_hpf_ne (v := 0) (by decide) ..
  · exact voicedTrack_hpf_ne (v := 1) (by decide) ..
  · exact keeps_of_subset (keeps_setQuad (keeps_setTrack_of_keeps (keeps_glideTick k s) k _) rd _) (by simp) (by simp) (by simp)

/-- Settles O46, by induction on the count: each tick of a glide counts down by 1, and the one that counts to 0 takes the target. -/
theorem glideReachesTarget : Obligations.GlideReachesTarget := by
  intro s k rd hdirect hosc hsampler hgliding
  obtain ⟨n, hn⟩ : ∃ n, (s.track k).gcnt.toNat = n + 1 := Nat.exists_eq_succ_of_ne_zero (by bv_omega)
  rw [hn]
  exact exists_glide_end rd n hdirect ⟨hosc, hsampler⟩ hn

end Sys2Proof.Proofs
end

section
/-! SUPPORT. SEQ.RNDS and SEQ.RNDR (R207, R208): each is a run of draws, every one stored in a byte of its own; and what the draws
from a given script are (I5, I6). -/

namespace Sys2Proof.Laws

open Sys2Proof Sys2Proof.Machine

/-! ## A script of answers -/

/-- The same state with these answers to come. -/
abbrev withAnswers (s : State) (answers : List (BitVec 7)) : State := { s with inputs := { s.inputs with answers := answers } }

theorem drop_append_of_lt {script : List (BitVec 7)} (rest : List (BitVec 7)) {n : Nat} (hn : n < script.length) :
    script.drop n ++ rest = script[n] :: (script.drop (n + 1) ++ rest) := by
  rw [List.drop_eq_getElem_cons hn, List.cons_append]

/-- Draws from a script take its entries one after another (assumption 2). -/
theorem afterDraws_of_script {s : State} {script rest : List (BitVec 7)} (h : s.inputs.answers = script ++ rest) {n : Nat}
    (hn : n ≤ script.length) :
    s.afterDraws n = withAnswers s (script.drop n ++ rest) := by
  induction n with
  | zero => rw [List.drop_zero, ← h]; rfl
  | succ n ih =>
    have hlt : n < script.length := hn
    rw [afterDraws_succ, ih hlt.le]
    exact (draw_of_cons (drop_append_of_lt rest hlt)).2

theorem nextAnswer_of_script {s : State} {script rest : List (BitVec 7)} (h : s.inputs.answers = script ++ rest) {n : Nat}
    {a : BitVec 7} (ha : script[n]? = some a) : (s.afterDraws n).nextAnswer = a := by
  obtain ⟨hn, rfl⟩ := List.getElem?_eq_some_iff.1 ha
  rw [afterDraws_of_script h hn.le]
  exact (draw_of_cons (drop_append_of_lt rest hn)).1

theorem inputs_of_script {s : State} {script rest : List (BitVec 7)} (h : s.inputs.answers = script ++ rest) :
    (s.afterDraws script.length).inputs = { s.inputs with answers := rest } := by
  rw [afterDraws_of_script h le_rfl, List.drop_length, List.nil_append]

theorem afterDraws_turns (s : State) (n : Nat) : (s.afterDraws n).inputs.turns = s.inputs.turns := by
  induction n with
  | zero => rfl
  | succ n ih =>
    rw [afterDraws_succ, ← ih, State.afterDraw]
    split <;> rfl

/-! ## Draws into bytes -/

/-- A draw stored in one byte, as the value `val` of the answer. -/
def drawByte (val : BitVec 7 → Byte) (a : Nat) (s : State) : State :=
  { s.afterDraw with mem := s.mem.setByte a (val s.nextAnswer) }

/-- State u is as n draws leave state s, draw i stored at address `addr i` as the value `val` of its answer. -/
structure Drawn (val : BitVec 7 → Byte) (addr : Nat → Nat) (s u : State) (n : Nat) : Prop where
  eq : u = { s.afterDraws n with mem := u.mem }
  stored : ∀ i < n, u.mem.byte (addr i) = val (s.afterDraws i).nextAnswer
  kept : ∀ a, (∀ i < n, a ≠ addr i) → u.mem.byte a = s.mem.byte a

theorem drawn_zero (val : BitVec 7 → Byte) (addr : Nat → Nat) (s : State) : Drawn val addr s s 0 where
  eq := rfl
  stored i hi := absurd hi (Nat.not_lt_zero i)
  kept _ _ := rfl

theorem afterDraw_withMem (s : State) (m : Memory) : ({ s with mem := m } : State).afterDraw = { s.afterDraw with mem := m } := by
  cases h : s.inputs.answers <;> simp only [State.afterDraw, h]

section

variable {val : BitVec 7 → Byte} {addr : Nat → Nat} {s u : State} {n : Nat}

/-- One more draw, into a byte that holds none yet. -/
theorem Drawn.draw (h : Drawn val addr s u n) (hnew : ∀ i < n, addr i ≠ addr n) :
    Drawn val addr s (drawByte val (addr n) u) (n + 1) := by
  have hanswer : u.nextAnswer = (s.afterDraws n).nextAnswer := by rw [h.eq]; rfl
  refine ⟨?_, fun i hi => ?_, fun a ha => ?_⟩
  · have hdraw : u.afterDraw = { (s.afterDraws n).afterDraw with mem := u.mem } := by rw [h.eq, afterDraw_withMem]
    rw [drawByte, hdraw]
    rfl
  · rw [drawByte, byte_setByte, hanswer]
    rcases eq_or_ne i n with rfl | hne
    · exact if_pos rfl
    · have hlt : i < n := by omega
      rw [if_neg (hnew i hlt), h.stored i hlt]
  · rw [drawByte, byte_setByte_ne _ _ (ha n n.lt_succ_self), h.kept a fun i hi => ha i (hi.trans n.lt_succ_self)]

theorem Drawn.track (h : Drawn val addr s u n) (k : Fin Config.NTRK) : u.track k = s.track k := by
  rw [h.eq, afterDraws_eq]
  rfl

/-- What draws leave alone: everything but the inputs and the bytes they are stored in. -/
theorem Drawn.frame (h : Drawn val addr s u n) {stored : List (Nat × Nat)}
    (hstored : ∀ a, (∀ w ∈ stored, a < w.1 ∨ w.1 + w.2 ≤ a) → ∀ i < n, a ≠ addr i) :
    u.inputs = (s.afterDraws n).inputs ∧ u.inputs.turns = s.inputs.turns ∧ u.err = s.err ∧
      Keeps { s with inputs := u.inputs } u [] [] stored := by
  have hinputs : u.inputs = (s.afterDraws n).inputs := by rw [h.eq]
  have hu : u = { ({ s with inputs := u.inputs } : State) with mem := u.mem } := by
    rw [hinputs]
    conv => lhs; rw [h.eq, afterDraws_eq]
  refine ⟨hinputs, ?_, ?_, ?_⟩
  · rw [hinputs]
    exact afterDraws_turns s n
  · rw [hu]
  · rw [hu]
    exact keeps_withMem fun a ha => h.kept a (hstored a ha)

end

/-! ## The slots of a pattern -/

/-- The first n slots of a pattern. -/
def slotsBelow (n : Nat) : List (BitVec 4) := (List.range n).map (BitVec.ofNat 4)

theorem patternSlots_eq : patternSlots = slotsBelow 16 := rfl

theorem foldl_slotsBelow_succ (f : State → BitVec 4 → State) (s : State) (n : Nat) :
    (slotsBelow (n + 1)).foldl f s = f ((slotsBelow n).foldl f s) (BitVec.ofNat 4 n) := by
  rw [slotsBelow, List.range_succ, List.map_append, List.foldl_append]
  rfl

theorem patternAddr_ofNat (k : Fin Config.NTRK) {j : Nat} (hj : j < 16) : patternAddr k (BitVec.ofNat 4 j) = k.val * 16 + j := by
  rw [patternAddr, BitVec.toNat_ofNat, Nat.mod_eq_of_lt hj]

/-! ## SEQ.RNDS -/

/-- Where SEQ.RNDS stores draw j (I5). -/
def noteCell (k : Fin Config.NTRK) (j : Nat) : Nat := Space.pn.cell (k.val * 16 + j)

theorem rndNote_eq (k : Fin Config.NTRK) (s : State) {j : Nat} (hj : j < 16) :
    rndNote k s (BitVec.ofNat 4 j) = drawByte (drawnNote (s.track k).root) (noteCell k j) s := by
  rw [rndNote, patternAddr_ofNat k hj, State.setByteAt, afterDraw_mem]
  rfl

/-- The notes of the first n slots are n draws. -/
theorem foldl_rndNote_drawn (k : Fin Config.NTRK) (s : State) {n : Nat} (hn : n ≤ 16) :
    Drawn (drawnNote (s.track k).root) (noteCell k) s ((slotsBelow n).foldl (rndNote k) s) n := by
  induction n with
  | zero => exact drawn_zero ..
  | succ n ih =>
    have hdrawn := ih (Nat.le_of_succ_le hn)
    rw [foldl_slotsBelow_succ, rndNote_eq k _ hn, hdrawn.track]
    refine hdrawn.draw fun i hi => ?_
    simp only [noteCell, Space.cell, Space.width]
    omega

theorem seqRnds_drawn (k : Fin Config.NTRK) (s : State) :
    Drawn (drawnNote (s.track k).root) (noteCell k) s (seqRnds k s) 16 := by
  rw [seqRnds, patternSlots_eq]
  exact foldl_rndNote_drawn k s le_rfl

/-- A byte holds a drawn note, whose pitch is the answer (R207). -/
theorem pitch_of_drawnNote {u : State} {a : Nat} {root answer : BitVec 7}
    (h : u.mem.byte (Space.pn.cell a) = drawnNote root answer) :
    (root.toNat : Int) + (u.memRead .pn a).toInt = answer.toNat := by
  have hroot := root.isLt
  have hanswer := answer.isLt
  have hnote : (drawnNote root answer).toInt = (answer.toNat : Int) - root.toNat := by
    rw [drawnNote, BitVec.toInt_ofInt]
    exact Int.bmod_eq_of_le (by omega) (by omega)
  rw [State.memRead, State.byteAt, h, BitVec.toInt_signExtend_of_le (by decide), hnote]
  omega

theorem seqRnds_pitch (k : Fin Config.NTRK) (s : State) {j : Nat} (hj : j < 16) :
    ((s.track k).root.toNat : Int) + ((seqRnds k s).memRead .pn (k.val * 16 + j)).toInt = (s.afterDraws j).nextAnswer.toNat :=
  pitch_of_drawnNote ((seqRnds_drawn k s).stored j hj)

/-- SEQ.RNDS stores in the notes of its own pattern. -/
theorem ne_noteCell {k : Fin Config.NTRK} {a : Nat}
    (h : ∀ w ∈ [(Space.pn.cell (k.val * 16), 16)], a < w.1 ∨ w.1 + w.2 ≤ a) {i : Nat} (hi : i < 16) :
    a ≠ noteCell k i := by
  rw [List.forall_mem_singleton] at h
  simp only [noteCell, Space.cell, Space.width] at h ⊢
  omega

/-- A script that begins with sixteen pitches gives them (I5). -/
theorem seqRnds_of_script (k : Fin Config.NTRK) {s : State} {pitch : Fin 16 → BitVec 7} {rest : List (BitVec 7)}
    (h : s.inputs.answers = List.ofFn pitch ++ rest) :
    (∀ j : Fin 16, ((s.track k).root.toNat : Int) + ((seqRnds k s).memRead .pn (k.val * 16 + j.val)).toInt = (pitch j).toNat) ∧
      (seqRnds k s).inputs = { s.inputs with answers := rest } := by
  refine ⟨fun j => ?_, ?_⟩
  · have hj : (List.ofFn pitch)[j.val]? = some (pitch j) := by rw [List.getElem?_ofFn, dif_pos j.isLt]
    rw [seqRnds_pitch k s j.isLt, nextAnswer_of_script h hj]
  · have hinputs := inputs_of_script h
    rw [List.length_ofFn] at hinputs
    rw [(seqRnds_drawn k s).eq]
    exact hinputs

theorem exec_seqRnds (s : State) (k : Fin Config.NTRK) : exec (.seqRnds (trackField k)) s = .next (seqRnds k s) := by
  simp only [exec, execSeqRnds, onTrack_field]

/-! ## SEQ.RNDR -/

/-- The space draw i of SEQ.RNDR goes to: pause, accent and slide in turn (I6). -/
def flagSpace (i : Nat) : Space := if i % 3 = 0 then .pp else if i % 3 = 1 then .pa else .ps

/-- Where SEQ.RNDR stores draw i: three flags for each slot (I6). -/
def flagCell (k : Fin Config.NTRK) (i : Nat) : Nat := (flagSpace i).cell (k.val * 16 + i / 3)

theorem flagCell_eq (k : Fin Config.NTRK) (i : Nat) : flagCell k i = (4 + i % 3) * 2 ^ 34 + (k.val * 16 + i / 3) := by
  have hcases : i % 3 = 0 ∨ i % 3 = 1 ∨ i % 3 = 2 := by omega
  rcases hcases with h | h | h <;>
    simp [flagCell, flagSpace, h, Space.cell, Space.base, Space.index, Space.width]

theorem flagCell_pause (k : Fin Config.NTRK) (j : Nat) : flagCell k (3 * j) = Space.pp.cell (k.val * 16 + j) := by
  rw [flagCell, flagSpace, if_pos (by omega), show 3 * j / 3 = j by omega]

theorem flagCell_accent (k : Fin Config.NTRK) (j : Nat) : flagCell k (3 * j + 1) = Space.pa.cell (k.val * 16 + j) := by
  rw [flagCell, flagSpace, if_neg (by omega), if_pos (by omega), show (3 * j + 1) / 3 = j by omega]

theorem flagCell_slide (k : Fin Config.NTRK) (j : Nat) : flagCell k (3 * j + 2) = Space.ps.cell (k.val * 16 + j) := by
  rw [flagCell, flagSpace, if_neg (by omega), if_neg (by omega), show (3 * j + 2) / 3 = j by omega]

/-- Each draw has a byte of its own: a slot's flags lie in three spaces, and the slots are different elements. -/
theorem flagCell_ne (k : Fin Config.NTRK) {i n : Nat} (hlt : i < n) (hn : n < 48) : flagCell k i ≠ flagCell k n := by
  have hk : k.val < 4 := k.isLt
  rw [flagCell_eq, flagCell_eq]
  omega

/-- A drawn flag as a byte (R208). -/
def flagByte (answer : BitVec 7) : Byte := (BitVec.ofBool (answer.getLsbD 0)).setWidth 8

theorem rndFlag_eq (sp : Space) (k : Fin Config.NTRK) (s : State) {j : Nat} (hj : j < 16) :
    rndFlag sp k (BitVec.ofNat 4 j) s = drawByte flagByte (sp.cell (k.val * 16 + j)) s := by
  rw [rndFlag, patternAddr_ofNat k hj, State.setByteAt, afterDraw_mem]
  rfl

theorem rndSlot_eq (k : Fin Config.NTRK) (s : State) {j : Nat} (hj : j < 16) : rndSlot k s (BitVec.ofNat 4 j) =
    drawByte flagByte (flagCell k (3 * j + 2)) (drawByte flagByte (flagCell k (3 * j + 1))
      (drawByte flagByte (flagCell k (3 * j)) s)) := by
  rw [rndSlot, rndFlag_eq _ k _ hj, rndFlag_eq _ k _ hj, rndFlag_eq _ k _ hj, flagCell_pause, flagCell_accent, flagCell_slide]

/-- The flags of the first n slots are 3 n draws. -/
theorem foldl_rndSlot_drawn (k : Fin Config.NTRK) (s : State) {n : Nat} (hn : n ≤ 16) :
    Drawn flagByte (flagCell k) s ((slotsBelow n).foldl (rndSlot k) s) (3 * n) := by
  induction n with
  | zero => exact drawn_zero ..
  | succ n ih =>
    have hpause := (ih (Nat.le_of_succ_le hn)).draw fun i hi => flagCell_ne k hi (by omega)
    have haccent := hpause.draw fun i hi => flagCell_ne k hi (by omega)
    have hslide := haccent.draw fun i hi => flagCell_ne k hi (by omega)
    rw [foldl_slotsBelow_succ, rndSlot_eq k _ hn]
    exact hslide

theorem seqRndr_drawn (k : Fin Config.NTRK) (s : State) : Drawn flagByte (flagCell k) s (seqRndr k s) 48 := by
  rw [seqRndr, patternSlots_eq]
  exact foldl_rndSlot_drawn k s le_rfl

/-- A byte holds a drawn flag, and reads as the answer's bit 0 (R61, R208). -/
theorem memRead_of_flagByte {u : State} {sp : Space} (hsp : sp = .pp ∨ sp = .pa ∨ sp = .ps) {a : Nat} {answer : BitVec 7}
    (h : u.mem.byte (sp.cell a) = flagByte answer) : u.memRead sp a = if answer.getLsbD 0 then 1 else 0 := by
  have hread : u.memRead sp a = ((u.mem.byte (sp.cell a)).extractLsb' 0 1).setWidth 32 := by
    rcases hsp with rfl | rfl | rfl <;> rfl
  have hflag : ∀ b : Bool, ((((BitVec.ofBool b).setWidth 8 : Byte).extractLsb' 0 1).setWidth 32 : Word) = if b then 1 else 0 := by
    decide
  rw [hread, h]
  exact hflag _

theorem seqRndr_flags (k : Fin Config.NTRK) (s : State) {j : Nat} (hj : j < 16) :
    (seqRndr k s).memRead .pp (k.val * 16 + j) = (if (s.afterDraws (3 * j)).nextBit then 1 else 0) ∧
    (seqRndr k s).memRead .pa (k.val * 16 + j) = (if (s.afterDraws (3 * j + 1)).nextBit then 1 else 0) ∧
    (seqRndr k s).memRead .ps (k.val * 16 + j) = (if (s.afterDraws (3 * j + 2)).nextBit then 1 else 0) := by
  obtain ⟨-, hstored, -⟩ := seqRndr_drawn k s
  refine ⟨memRead_of_flagByte (.inl rfl) ?_, memRead_of_flagByte (.inr (.inl rfl)) ?_, memRead_of_flagByte (.inr (.inr rfl)) ?_⟩
  · rw [← flagCell_pause, hstored _ (by omega)]
  · rw [← flagCell_accent, hstored _ (by omega)]
  · rw [← flagCell_slide, hstored _ (by omega)]

/-- SEQ.RNDR stores in the flags of its own pattern. -/
theorem ne_flagCell {k : Fin Config.NTRK} {a : Nat}
    (h : ∀ w ∈ [(Space.pp.cell (k.val * 16), 16), (Space.pa.cell (k.val * 16), 16), (Space.ps.cell (k.val * 16), 16)],
      a < w.1 ∨ w.1 + w.2 ≤ a) {i : Nat} (hi : i < 48) : a ≠ flagCell k i := by
  simp only [List.forall_mem_cons, Space.cell, Space.base, Space.index, Space.width] at h
  obtain ⟨hpause, haccent, hslide, -⟩ := h
  have hcases : i % 3 = 0 ∨ i % 3 = 1 ∨ i % 3 = 2 := by omega
  rw [flagCell_eq]
  rcases hcases with hmod | hmod | hmod <;> rw [hmod] <;> omega

theorem exec_seqRndr (s : State) (k : Fin Config.NTRK) : exec (.seqRndr (trackField k)) s = .next (seqRndr k s) := by
  simp only [exec, execSeqRndr, onTrack_field]

/-! ## A script of three answers for each slot -/

theorem getElem?_flatMap_three {α β : Type} (l : List α) (a b c : α → β) (i : Nat) :
    (l.flatMap fun x => [a x, b x, c x])[3 * i]? = l[i]?.map a ∧
    (l.flatMap fun x => [a x, b x, c x])[3 * i + 1]? = l[i]?.map b ∧
    (l.flatMap fun x => [a x, b x, c x])[3 * i + 2]? = l[i]?.map c := by
  induction l generalizing i with
  | nil => exact ⟨rfl, rfl, rfl⟩
  | cons x l ih =>
    cases i with
    | zero => exact ⟨rfl, rfl, rfl⟩
    | succ i => exact ih i

theorem getLsbD_bitAnswer (b : Bool) : (bitAnswer b).getLsbD 0 = b := by cases b <;> rfl

/-- A draw of a flag from a script. -/
theorem nextBit_of_script {s : State} {script rest : List (BitVec 7)} (h : s.inputs.answers = script ++ rest) {n : Nat} {b : Bool}
    (hb : script[n]? = some (bitAnswer b)) : (s.afterDraws n).nextBit = b := by
  rw [State.nextBit, nextAnswer_of_script h hb, getLsbD_bitAnswer]

/-- The answers that make these flags, in the order of the draws (I6). -/
def flagScript (pause accent slide : Fin 16 → Bool) : List (BitVec 7) :=
  (List.finRange 16).flatMap fun j => [bitAnswer (pause j), bitAnswer (accent j), bitAnswer (slide j)]

/-- A script that begins with 48 flags gives them (I6). -/
theorem seqRndr_of_script (k : Fin Config.NTRK) {s : State} {pause accent slide : Fin 16 → Bool} {rest : List (BitVec 7)}
    (h : s.inputs.answers = flagScript pause accent slide ++ rest) :
    (∀ j : Fin 16, (seqRndr k s).memRead .pp (k.val * 16 + j.val) = (if pause j then 1 else 0) ∧
      (seqRndr k s).memRead .pa (k.val * 16 + j.val) = (if accent j then 1 else 0) ∧
      (seqRndr k s).memRead .ps (k.val * 16 + j.val) = (if slide j then 1 else 0)) ∧
      (seqRndr k s).inputs = { s.inputs with answers := rest } := by
  refine ⟨fun j => ?_, ?_⟩
  · have hslot : (List.finRange 16)[j.val]? = some j := by simp
    obtain ⟨hpause, haccent, hslide⟩ := getElem?_flatMap_three (List.finRange 16) (fun j => bitAnswer (pause j))
      (fun j => bitAnswer (accent j)) (fun j => bitAnswer (slide j)) j.val
    rw [hslot] at hpause haccent hslide
    obtain ⟨hpp, hpa, hps⟩ := seqRndr_flags k s j.isLt
    rw [hpp, hpa, hps, nextBit_of_script h hpause, nextBit_of_script h haccent, nextBit_of_script h hslide]
    exact ⟨rfl, rfl, rfl⟩
  · have hlength : (flagScript pause accent slide).length = 48 := rfl
    have hinputs := inputs_of_script h
    rw [hlength] at hinputs
    rw [(seqRndr_drawn k s).eq]
    exact hinputs

end Sys2Proof.Laws
end

section
/-! PROOF. SEQ.RNDS and SEQ.RNDR (O43). -/

namespace Sys2Proof.Proofs

open Sys2Proof Sys2Proof.Machine Sys2Proof.Laws

/-- Settles O43: every draw goes into a byte of its own, so it is found there after the last one; a script's answers are the
draws. -/
theorem randomPatternsAreLegalAndFree : Obligations.RandomPatternsAreLegalAndFree := by
  refine ⟨fun s k => ⟨⟨_, exec_seqRnds s k, fun j hj => ?_, (seqRnds_drawn k s).frame fun _ ha _ => ne_noteCell ha⟩,
      fun pitch rest => ⟨_, exec_seqRnds _ k, ?_⟩⟩,
    fun s k => ⟨⟨_, exec_seqRndr s k, fun j => seqRndr_flags k s, (seqRndr_drawn k s).frame fun _ ha _ => ne_flagCell ha⟩,
      fun pause accent slide rest => ⟨_, exec_seqRndr _ k, ?_⟩⟩⟩
  · have hlt := (s.afterDraws j).nextAnswer.isLt
    rw [seqRnds_pitch k s hj]
    omega
  · have hscript := seqRnds_of_script (s := withAnswers s (List.ofFn pitch ++ rest)) k rfl
    exact hscript
  · have hscript := seqRndr_of_script (s := withAnswers s (flagScript pause accent slide ++ rest)) k rfl
    exact hscript

end Sys2Proof.Proofs
end

section
/-! SUPPORT. A unit operation of a track works on the tracks, the memory and ERR alone: with these put in other surroundings it
answers the same and does the same to them. With the surroundings of the state itself this says what it leaves unchanged. -/

namespace Sys2Proof.Laws

open Sys2Proof Sys2Proof.Machine

/-! ## Surroundings -/

/-- The tracks, the memory and ERR of s in the surroundings of o. -/
def within (o s : State) : State := { o with tracks := s.tracks, mem := s.mem, err := s.err }

theorem within_self (s : State) : within s s = s := rfl

@[simp] theorem within_track (o s : State) (k : Fin Config.NTRK) : (within o s).track k = s.track k := rfl
@[simp] theorem within_getX (o s : State) (r : Reg) : (within o s).getX r = o.getX r := rfl
@[simp] theorem within_ft (o s : State) (n : Nat) : (within o s).ft n = s.ft n := rfl

@[simp] theorem setTrack_within (o s : State) (k : Fin Config.NTRK) (tr : Track) :
    (within o s).setTrack k tr = within o (s.setTrack k tr) := rfl

@[simp] theorem setWordAt_within (o s : State) (sp : Space) (a : Nat) (v : Word) :
    (within o s).setWordAt sp a v = within o (s.setWordAt sp a v) := rfl

theorem setPair_within (o s : State) (rd : Reg) (y : Word × Word) : (within o s).setPair rd y = within (o.setPair rd y) s := rfl

theorem setQuad_within (o s : State) (rd : Reg) (v : Voice) : (within o s).setQuad rd v = within (o.setQuad rd v) s := rfl

@[simp] theorem flagIf_within (o s : State) (hit : Bool) (c : Condition) :
    (within o s).flagIf hit c = within o (s.flagIf hit c) := by
  cases hit <;> rfl

/-- An answer that is the same in the surroundings of s leaves these as they were. -/
theorem eq_within_of_ok {α : Type} {r : Except Fault (α × State)} {y : α} {s u : State} (h : r = .ok (y, u))
    (hwithin : r = .ok (y, within s u)) : u = within s u := by
  rw [h] at hwithin
  injection hwithin with hpair
  exact congrArg Prod.snd hpair

/-! ## Each unit operation -/

theorem tuned_within (o s : State) (tr : Track) (f : F32) : tuned (within o s) tr f = tuned s tr f := by
  rw [tuned, seekTable_congr (within_ft o s), tuned]

theorem oscSetf_within (o s : State) (k : Fin Config.NTRK) (f : F32) : oscSetf k f (within o s) = within o (oscSetf k f s) := by
  rw [oscSetf, within_track, seekTable_congr (within_ft o s), setTrack_within, flagIf_within, oscSetf]

theorem voxTrig_within (o s : State) (k : Fin Config.NTRK) (note : BitVec 8) (accent slide : Bool) :
    voxTrig k note accent slide (within o s) = within o (voxTrig k note accent slide s) := by
  rcases slides_or_restarts slide (s.track k).gate with ⟨rfl, hgate⟩ | hrestart
  · rw [voxTrig_of_slide note accent hgate, voxTrig_of_slide (s := within o s) note accent hgate]
    rfl
  · rw [voxTrig_of_restart note accent hrestart, voxTrig_of_restart (s := within o s) note accent hrestart, restarted, tuned_within,
      setTrack_within, flagIf_within]
    rfl

theorem playSlot_within (o s : State) (k : Fin Config.NTRK) (q : BitVec 4) :
    playSlot k q (within o s) = within o (playSlot k q s) := by
  unfold playSlot
  rw [apply_ite (within o), ← voxTrig_within]
  rfl

theorem seqTick_within (o s : State) (k : Fin Config.NTRK) : seqTick k (within o s) = within o (seqTick k s) := by
  by_cases h : (s.track k).scnt = 0
  · rw [seqTick_of_boundary h, seqTick_of_boundary (s := within o s) h, within_track, playSlot_within]
    rfl
  · rw [seqTick_of_between h, seqTick_of_between (s := within o s) h]
    rfl

theorem glideTick_within (o s : State) (k : Fin Config.NTRK) : glideTick k (within o s) = within o (glideTick k s) := by
  by_cases h : (s.track k).gcnt = 0
  · rw [glideTick_of_resting h, glideTick_of_resting (s := within o s) h]
  · rw [glideTick_of_gliding h, glideTick_of_gliding (s := within o s) h, within_track, setTrack_within, oscSetf_within]

theorem oscTick_within (o : State) {k : Fin Config.NTRK} {s u : State} {y : F32} (h : oscTick k s = .ok (y, u)) :
    oscTick k (within o s) = .ok (y, within o u) := by
  obtain ⟨i, hindex, rfl, rfl⟩ := oscTick_ok h
  simp only [oscTick, within_track, hindex]
  rfl

theorem smpTick_within (o : State) {k : Fin Config.NTRK} {s u : State} {y : F32} (h : smpTick k s = .ok (y, u)) :
    smpTick k (within o s) = .ok (y, within o u) := by
  unfold smpTick at h
  dsimp only at h
  split at h
  · case isTrue hplaying =>
    split at h
    · case isTrue hinside =>
      cases h
      exact (if_pos hplaying).trans (if_pos hinside)
    · cases h
  · case isFalse hended =>
    cases h
    exact if_neg hended

theorem sourceTick_within (o : State) {k : Fin Config.NTRK} {s u : State} {y : F32} (h : sourceTick k s = .ok (y, u)) :
    sourceTick k (within o s) = .ok (y, within o u) := by
  rw [sourceTick, within_track]
  rw [sourceTick] at h
  cases hkind : (s.track k).kind <;> rw [hkind] at h
  case wavetable => exact oscTick_within o h
  case sampler => exact smpTick_within o h

theorem hpfProc_within (o s : State) (k : Fin Config.NTRK) (v : Fin Config.NHPF) (x : F32) :
    hpfProc k v x (within o s) = ((hpfProc k v x s).1, within o (hpfProc k v x s).2) := rfl

theorem voxTick_within (o : State) {k : Fin Config.NTRK} {s u : State} {v : Voice} (h : voxTick k s = .ok (v, u)) :
    voxTick k (within o s) = .ok (v, within o u) := by
  obtain ⟨raw, s1, hsource, rfl, rfl⟩ := voxTick_ok h
  simp only [voxTick, glideTick_within, sourceTick_within o hsource, hpfProc_within, within_track]

theorem storeRings_within (o s : State) (k : Fin Config.NTRK) (i : Fin Config.CAP) (l r : F32) :
    storeRings k i l r (within o s) = within o (storeRings k i l r s) := by
  rw [storeRings, setWordAt_within, setWordAt_within, storeRings]

theorem dlyIn_within (o s : State) (k : Fin Config.NTRK) (x : F32) : dlyIn k x (within o s) = within o (dlyIn k x s) := by
  rw [dlyIn_eq, dlyIn_eq, storeRings_within]
  rfl

theorem ringPair_within (o s : State) (k : Fin Config.NTRK) : ringPair k (within o s) = ringPair k s := rfl

theorem dlyOut_within (o s : State) (k : Fin Config.NTRK) :
    dlyOut k (within o s) = ((dlyOut k s).1, within o (dlyOut k s).2) := by
  rw [dlyOut_eq, dlyOut_eq, feedback, ringPair_within, within_track, setTrack_within, storeRings_within]
  rfl

theorem revIn_within (o s : State) (k : Fin Config.NTRK) (x : F32) : revIn k x (within o s) = within o (revIn k x s) := rfl

theorem apfProc_within (o : State) {k : Fin Config.NTRK} {v : Fin Config.NSTAGE} {x y : F32} {s u : State}
    (h : apfProc k v x s = .ok (y, u)) : apfProc k v x (within o s) = .ok (y, within o u) := by
  obtain ⟨hlt, rfl, rfl⟩ := apfProc_ok h
  exact if_pos hlt

theorem apfChain_within (o : State) {k : Fin Config.NTRK} {stages : List (Fin Config.NSTAGE)} {x y : F32} {s u : State}
    (h : apfChain k stages x s = .ok (y, u)) : apfChain k stages x (within o s) = .ok (y, within o u) := by
  induction stages generalizing x s with
  | nil => cases h; rfl
  | cons v stages ih =>
    rw [apfChain] at h ⊢
    split at h
    · case h_1 hstage =>
      rw [apfProc_within o hstage]
      exact ih h
    · cases h

theorem revProc_within (o : State) {k : Fin Config.NTRK} {s u : State} {y : F32 × F32} (h : revProc k s = .ok (y, u)) :
    revProc k (within o s) = .ok (y, within o u) := by
  obtain ⟨s1, hleft, hright⟩ := revProc_ok h
  simp only [revProc, within_track, setTrack_within, apfChain_within o hleft, apfChain_within o hright]

end Sys2Proof.Laws
end

section
/-! SUPPORT. The chain of a track (R227): the steps of MIX.TRK before the accumulation, which do not depend on their surroundings,
answer where the units are legal, and are what the five commands of the same units do in DIRECT mode. -/

namespace Sys2Proof.Laws

open Sys2Proof Sys2Proof.Machine Relation

/-! ## What the units keep -/

/-- A property of a track that each change of a unit keeps, the units together keep. -/
theorem UnitFrame.induct {P : Track → Prop} (hP : ∀ tr tr', UnitChange tr tr' → P tr → P tr') {s u : State} (h : UnitFrame s u)
    {k : Fin Config.NTRK} (hk : P (s.track k)) : P (u.track k) := by
  have hchanges := h.tracks k
  generalize u.track k = tr at hchanges ⊢
  induction hchanges with
  | refl => exact hk
  | tail _ hstep ih => exact hP _ _ hstep ih

theorem unitChange_reverbLegal (tr tr' : Track) (hchange : UnitChange tr tr') (h : tr.ReverbLegal) : tr'.ReverbLegal := by
  cases hchange with
  | stage v hlt => exact reverbLegal_setApidx h v (toNat_nextIndex_lt v _)
  | voice | tune | phase | rewind | sample | highPass | delay | bus | boundary | countDown => exact h

/-- The gains of a track are the host's, so the units leave them (R226, R241). -/
theorem UnitFrame.mixPan {s u : State} (h : UnitFrame s u) (k : Fin Config.NTRK) (l r : F32) :
    mixPan (u.track k) l r = mixPan (s.track k) l r := by
  have hinit := initialTrack_of_unitChanges (h.tracks k)
  have hpan : (u.track k).pan = (s.track k).pan := (congrArg Track.pan hinit :)
  have hvol : (u.track k).vol = (s.track k).vol := (congrArg Track.vol hinit :)
  rw [Machine.mixPan, hpan, hvol, Machine.mixPan]

/-! ## The chain -/

/-- Steps (a) to (c) of MIX.TRK, from s to u: the voice v leaves s1, the delay's pair e leaves s2, the reverb's pair is r (R227). -/
structure TrackChain (k : Fin Config.NTRK) (v : Voice) (e r : F32 × F32) (s s1 s2 u : State) : Prop where
  voice : voxTick k s = .ok (v, s1)
  delay : dlyOut k (dlyIn k v.delaySend s1) = (e, s2)
  reverb : revProc k (revIn k v.reverbSend s2) = .ok (r, u)

/-- MIX.TRK answers exactly what its chain gives, accumulated. -/
theorem mixTrk_eq_ok_iff {k : Fin Config.NTRK} {s w : State} : mixTrk k s = .ok w ↔
    ∃ v e r s1 s2 u, TrackChain k v e r s s1 s2 u ∧
      w = accumulate k (sumEffects v.dryL e.1 r.1) (sumEffects v.dryR e.2 r.2) u := by
  constructor
  · intro h
    obtain ⟨v, s1, r, u, hvoice, hreverb, rfl⟩ := mixTrk_ok h
    exact ⟨v, _, r, s1, _, u, ⟨hvoice, rfl, hreverb⟩, rfl⟩
  · rintro ⟨v, e, r, s1, s2, u, ⟨hvoice, hdelay, hreverb⟩, rfl⟩
    simp only [mixTrk, hvoice, hdelay, hreverb]

theorem exec_mixTrk {k : Fin Config.NTRK} {s u : State} (hdirect : s.status.active = false) (h : mixTrk k s = .ok u) :
    exec (.mixTrk (trackField k)) s = .next u := by
  simp only [exec, execMixTrk, onTrack_field, directOnly_of_direct _ _ hdirect, h, resultOf]

/-! ## The commands of the units in other surroundings -/

theorem exec_voxTick_within {k : Fin Config.NTRK} {o s u : State} {v : Voice} (rd : Reg) (hdirect : o.status.active = false)
    (h : voxTick k s = .ok (v, u)) :
    exec (.voxTick rd (trackField k)) (within o s) = .next (within (o.setQuad rd v) u) := by
  rw [exec_voxTick (s := within o s) rd hdirect (voxTick_within o h), setQuad_within]

theorem exec_dlyIn_within (k : Fin Config.NTRK) (rs : Reg) {o : State} (s : State) (hdirect : o.status.active = false) :
    exec (.dlyIn (trackField k) rs) (within o s) = .next (within o (dlyIn k (o.getX rs) s)) := by
  rw [exec_dlyIn (s := within o s) k rs hdirect, within_getX, dlyIn_within]

theorem exec_dlyOut_within {k : Fin Config.NTRK} {o s u : State} {e : F32 × F32} (rd : Reg) (hdirect : o.status.active = false)
    (h : dlyOut k s = (e, u)) : exec (.dlyOut rd (trackField k)) (within o s) = .next (within (o.setPair rd e) u) := by
  have hpair : ringPair k s = e := by
    rw [dlyOut_eq] at h
    exact congrArg Prod.fst h
  rw [exec_dlyOut (s := within o s) k rd hdirect, ringPair_within, hpair, dlyOut_within, h, setPair_within]

theorem exec_revIn_within (k : Fin Config.NTRK) (rs : Reg) {o : State} (s : State) (hdirect : o.status.active = false) :
    exec (.revIn (trackField k) rs) (within o s) = .next (within o (revIn k (o.getX rs) s)) := by
  rw [exec_revIn (s := within o s) k rs hdirect, within_getX, revIn_within]

theorem exec_revProc_within {k : Fin Config.NTRK} {o s u : State} {y : F32 × F32} (rd : Reg) (hdirect : o.status.active = false)
    (h : revProc k s = .ok (y, u)) :
    exec (.revProc rd (trackField k)) (within o s) = .next (within (o.setPair rd y) u) := by
  rw [exec_revProc (s := within o s) rd hdirect (revProc_within o h), setPair_within]

/-! ## The chain in DIRECT mode -/

/-- The results of the chain's commands in X: the voice's quadruple in X0 to X3, the pairs in X4, X5 and X6, X7 (R227). -/
def withResults (s : State) (v : Voice) (e r : F32 × F32) : State := ((s.setQuad 0 v).setPair 4 e).setPair 6 r

/-- The summands of both channels stand in X0, X4, X6 and X1, X5, X7. -/
theorem getX_withResults (s : State) (v : Voice) (e r : F32 × F32) :
    (withResults s v e r).getX 0 = v.dryL ∧ (withResults s v e r).getX 1 = v.dryR ∧
    (withResults s v e r).getX 4 = e.1 ∧ (withResults s v e r).getX 5 = e.2 ∧
    (withResults s v e r).getX 6 = r.1 ∧ (withResults s v e r).getX 7 = r.2 := by
  obtain ⟨hdryL, hdryR, -, -⟩ := getX_setQuad s 0 v
  obtain ⟨hdelay, -⟩ := onlyX_setPair (s.setQuad 0 v) 4 e
  obtain ⟨hreverb, -⟩ := onlyX_setPair ((s.setQuad 0 v).setPair 4 e) 6 r
  exact ⟨(hreverb.regs 0 (by decide)).trans ((hdelay.regs 0 (by decide)).trans hdryL),
    (hreverb.regs 1 (by decide)).trans ((hdelay.regs 1 (by decide)).trans hdryR),
    (hreverb.regs 4 (by decide)).trans (getX_setPair_fst _ 4 e), (hreverb.regs 5 (by decide)).trans (getX_setPair_snd _ 4 e),
    getX_setPair_fst _ 6 r, getX_setPair_snd _ 6 r⟩

/-- The chain answers where the units of the track are legal: no unit before the reverb moves an index out of its buffer. -/
theorem exists_trackChain {k : Fin Config.NTRK} {s : State} (hsource : SourceLegal (s.track k)) (hreverb : (s.track k).ReverbLegal) :
    ∃ v e r s1 s2 u, TrackChain k v e r s s1 s2 u := by
  obtain ⟨raw, p, q, -, hvoice⟩ := voxTick_of_legal hsource
  generalize voiceOut (s.track k) _ = v at hvoice
  generalize (glideTick k s).setTrack k _ = s1 at hvoice
  have hframe : UnitFrame s (revIn k v.reverbSend (dlyOut k (dlyIn k v.delaySend s1)).2) :=
    (voxTick_unitFrame hvoice).trans <| (dlyIn_unitFrame k _ s1).trans <| (dlyOut_unitFrame k _).trans (revIn_unitFrame k _ _)
  obtain ⟨u, hrev, -⟩ := revProc_of_legal (hframe.induct unitChange_reverbLegal hreverb)
  exact ⟨v, _, _, s1, _, u, hvoice, rfl, hrev⟩

namespace TrackChain

variable {k : Fin Config.NTRK} {v : Voice} {e r : F32 × F32} {s s1 s2 u : State}

theorem inSurroundings (h : TrackChain k v e r s s1 s2 u) (o : State) :
    TrackChain k v e r (within o s) (within o s1) (within o s2) (within o u) where
  voice := voxTick_within o h.voice
  delay := by rw [dlyIn_within, dlyOut_within, h.delay]
  reverb := by rw [revIn_within, revProc_within o h.reverb]

/-- The chain leaves its surroundings as they were, at each of its steps. -/
theorem eq_within (h : TrackChain k v e r s s1 s2 u) :
    s1 = within s s1 ∧ s2 = within s s2 ∧ u = within s u := by
  have hself := h.inSurroundings s
  have hs1 : s1 = within s s1 := eq_within_of_ok h.voice hself.voice
  have hs2 : s2 = within s s2 := by
    have hdelay := hself.delay
    rw [← hs1, h.delay] at hdelay
    exact congrArg Prod.snd hdelay
  have hreverb := hself.reverb
  rw [← hs2] at hreverb
  exact ⟨hs1, hs2, eq_within_of_ok h.reverb hreverb⟩

theorem unitFrame (h : TrackChain k v e r s s1 s2 u) : UnitFrame s u := by
  have hdelay := dlyOut_unitFrame k (dlyIn k v.delaySend s1)
  rw [h.delay] at hdelay
  exact (voxTick_unitFrame h.voice).trans <| (dlyIn_unitFrame k _ s1).trans <| hdelay.trans <|
    (revIn_unitFrame k _ s2).trans (revProc_unitFrame h.reverb)

/-- The five commands of the chain's units in DIRECT mode leave its state, with their results in X0 to X7. -/
theorem runCommands (h : TrackChain k v e r s s1 s2 u) (hdirect : s.status.active = false) :
    runCommands [.voxTick 0 (trackField k), .dlyIn (trackField k) 2, .dlyOut 4 (trackField k), .revIn (trackField k) 3,
      .revProc 6 (trackField k)] s = .next (within (withResults s v e r) u) := by
  obtain ⟨-, -, hdelaySend, hreverbSend⟩ := getX_setQuad s 0 v
  obtain ⟨hdelay, -⟩ := onlyX_setPair (s.setQuad 0 v) 4 e
  have hkept : ((s.setQuad 0 v).setPair 4 e).getX 3 = v.reverbSend := (hdelay.regs 3 (by decide)).trans hreverbSend
  have hvoxTick := exec_voxTick_within (o := s) 0 hdirect h.voice
  have hdlyIn := exec_dlyIn_within k 2 (o := s.setQuad 0 v) s1 hdirect
  have hdlyOut := exec_dlyOut_within (o := s.setQuad 0 v) 4 hdirect h.delay
  have hrevIn := exec_revIn_within k 3 (o := (s.setQuad 0 v).setPair 4 e) s2 hdirect
  have hrevProc := exec_revProc_within (o := (s.setQuad 0 v).setPair 4 e) 6 hdirect h.reverb
  rw [within_self] at hvoxTick
  rw [show (s.setQuad 0 v).getX 2 = v.delaySend from hdelaySend] at hdlyIn
  rw [hkept] at hrevIn
  rw [runCommands_cons hvoxTick, runCommands_cons hdlyIn, runCommands_cons hdlyOut, runCommands_cons hrevIn,
    runCommands_cons hrevProc, Machine.runCommands, withResults]

end TrackChain

end Sys2Proof.Laws
end

section
/-! PROOF. MIX.TRK (O48). -/

namespace Sys2Proof.Proofs

open Sys2Proof Sys2Proof.Machine Sys2Proof.Laws

/-- Settles O48: both are the chain of the track, MIX.TRK with the surroundings of s and the commands with the results in X. -/
theorem mixTrkIsTheChain : Obligations.MixTrkIsTheChain := by
  intro s k hdirect hlegal
  obtain ⟨hosc, hsampler, hreverb⟩ := hlegal k
  obtain ⟨v, e, r, s1, s2, u, hchain⟩ := exists_trackChain ⟨hosc, hsampler⟩ hreverb
  obtain ⟨-, -, hu⟩ := hchain.eq_within
  obtain ⟨h0, h1, h4, h5, h6, h7⟩ := getX_withResults s v e r
  have hpan := hchain.unitFrame.mixPan k
  have hmaccl : u.maccl = s.maccl := (congrArg State.maccl hu :)
  have hmaccr : u.maccr = s.maccr := (congrArg State.maccr hu :)
  refine ⟨_, _, exec_mixTrk hdirect (mixTrk_eq_ok_iff.2 ⟨v, e, r, s1, s2, u, hchain, rfl⟩), hchain.runCommands hdirect, ?_⟩
  simp only [within_getX, h0, h1, h4, h5, h6, h7, accumulate, hpan, hmaccl, hmaccr]
  refine ⟨rfl, rfl, ?_⟩
  rw [hu]
  rfl

end Sys2Proof.Proofs
end

section
/-! SUPPORT. The agent's turn against the command of its slot (R236 to R238): which of its three steps a turn takes, and that no
operation of the schedule reads the mode or the slot. -/

namespace Sys2Proof.Laws

open Sys2Proof Sys2Proof.Machine

/-! ## The steps of a turn -/

theorem agentTurn_of_waiting {s : State} (h : s.agentEnabled = false) : agentTurn s = .next s := by
  rw [agentTurn, h]
  rfl

theorem agentTurn_of_disposing {s : State} (henabled : s.agentEnabled = true) (h : s.disposing = true) :
    agentTurn s = .next (disposeStep s) := by
  rw [agentTurn, henabled, h]
  rfl

theorem agentTurn_of_slot {s : State} (h : ¬NoSlot s) : agentTurn s = resultOf (slotStep s) := by
  rw [noSlot_iff, Bool.not_eq_false, Bool.and_eq_true, Bool.not_eq_true'] at h
  obtain ⟨henabled, hdisposing⟩ := h
  rw [agentTurn, henabled, hdisposing]
  rfl

theorem atBoundary_iff {s : State} : s.atBoundary = true ↔ s.rpos.pframe = 0 ∧ s.rpos.slot = 0 := by
  simp [State.atBoundary]

theorem agentEnabled_eq_false_iff {s : State} : s.agentEnabled = false ↔ s.status.active = false ∨
    (s.rpos.pframe = 0 ∧ s.rpos.slot = 0 ∧ s.status.running = true ∧ s.status.paused = true) := by
  rw [← and_assoc, ← atBoundary_iff, State.agentEnabled]
  cases s.status.active <;> simp [and_assoc]

theorem disposing_iff {s : State} :
    s.disposing = true ↔ s.rpos.pframe = 0 ∧ s.rpos.slot = 0 ∧ s.status.running = false := by
  rw [← and_assoc, ← atBoundary_iff, State.disposing, Bool.and_eq_true, Bool.not_eq_true']

theorem active_of_agentEnabled {s : State} (h : s.agentEnabled = true) : s.status.active = true := by
  rw [State.agentEnabled, Bool.and_eq_true] at h
  obtain ⟨hactive, -⟩ := h
  exact hactive

/-- A stopped engine is never paused at the boundary: the dispose step is enabled whatever PAUSED says (R237). -/
theorem agentEnabled_of_disposing {s : State} (hactive : s.status.active = true) (h : s.disposing = true) :
    s.agentEnabled = true := by
  obtain ⟨-, -, hstopped⟩ := disposing_iff.1 h
  simp [State.agentEnabled, hactive, hstopped]

/-! ## The mode and the slot put in -/

/-- The same state in ACTIVE mode at slot q. -/
def activeAt (q : Fin Config.NSLOT) (s : State) : State :=
  { s with status := { s.status with active := true }, rpos := { s.rpos with slot := q } }

/-- A state in ACTIVE mode is its DIRECT one with the mode put in. -/
theorem activeAt_direct {s : State} (h : s.status.active = true) (q : Fin Config.NSLOT) : activeAt q s.direct = s.setSlot q := by
  have hstatus : { s.status with active := true } = s.status := by rw [← h]
  calc activeAt q s.direct
    _ = { s with status := { s.status with active := true }, rpos := { s.rpos with slot := q } } := rfl
    _ = s.setSlot q := by rw [hstatus]; rfl

/-- An operation on the tracks in ACTIVE mode leaves what it leaves in DIRECT mode. -/
theorem setSlot_within {s : State} (h : s.status.active = true) (q : Fin Config.NSLOT) (u : State) :
    (within s u).setSlot q = activeAt q (within s.direct u) := by
  calc (within s u).setSlot q
    _ = within (s.setSlot q) u := rfl
    _ = activeAt q (within s.direct u) := by rw [← activeAt_direct h]; rfl

/-! ## MIX.EMIT -/

theorem afterDraw_activeAt (q : Fin Config.NSLOT) (s : State) : (activeAt q s).afterDraw = activeAt q s.afterDraw := by
  have hinputs : (activeAt q s).afterDraw.inputs = s.afterDraw.inputs := (nextBit_of_inputs (s := activeAt q s) (t := s) rfl).2
  calc (activeAt q s).afterDraw
    _ = { activeAt q s with inputs := (activeAt q s).afterDraw.inputs } := afterDraws_eq (activeAt q s) 1
    _ = activeAt q { s with inputs := s.afterDraw.inputs } := by rw [hinputs]; rfl
    _ = activeAt q s.afterDraw := congrArg (activeAt q) (afterDraws_eq s 1).symm

theorem storeFrame_activeAt (q : Fin Config.NSLOT) (s : State) : storeFrame (activeAt q s) = activeAt q (storeFrame s) := rfl

theorem offerDevice_activeAt (q : Fin Config.NSLOT) (s : State) : offerDevice (activeAt q s) = activeAt q (offerDevice s) := by
  unfold offerDevice
  rw [afterDraw_activeAt, apply_ite (activeAt q), apply_ite (activeAt q)]
  rfl

theorem offerCapture_activeAt (q : Fin Config.NSLOT) (s : State) : offerCapture (activeAt q s) = activeAt q (offerCapture s) := by
  unfold offerCapture
  rw [afterDraw_activeAt, apply_ite (activeAt q), apply_ite (activeAt q)]
  rfl

theorem handoff_activeAt (q : Fin Config.NSLOT) (b : Fin Config.NBUF) (s : State) :
    handoff b (activeAt q s) = activeAt q (handoff b s) := by
  unfold handoff
  rw [offerDevice_activeAt, offerCapture_activeAt]
  rfl

/-- MIX.EMIT reads neither the mode nor the slot. -/
theorem mixEmit_activeAt (q : Fin Config.NSLOT) (s : State) : mixEmit (activeAt q s) = activeAt q (mixEmit s) := by
  by_cases hinside : s.rpos.pframe.val + 1 < Config.BUFLEN
  · rw [mixEmit_of_inside hinside, mixEmit_of_inside (s := activeAt q s) hinside, storeFrame_activeAt]
    rfl
  · have hlast : s.rpos.pframe.val = 1023 := by
      have hlt : s.rpos.pframe.val < 1024 := s.rpos.pframe.isLt
      simp only [Config.BUFLEN] at hinside
      omega
    rw [mixEmit_of_last hlast, mixEmit_of_last (s := activeAt q s) hlast, storeFrame_activeAt, handoff_activeAt]
    rfl

/-! ## The slot -/

/-- The slot after q, from the last to the first. -/
theorem nextSlot_eq (q : Fin Config.NSLOT) (h : q.val < 2 * Config.NTRK) : nextSlot q h = q + 1 := by
  revert q; decide

theorem succ_of_last {q : Fin Config.NSLOT} (h : ¬q.val < 2 * Config.NTRK) : q + 1 = 0 := by
  revert q; decide

theorem slotStep_of_seqTick {s : State} (h : s.rpos.slot.val < Config.NTRK) :
    slotStep s = .ok ((seqTick ⟨s.rpos.slot.val, h⟩ s).setSlot (s.rpos.slot + 1)) := by
  rw [slotStep, dif_pos h, nextSlot_eq]

theorem slotStep_of_mixTrk {s u : State} (hge : ¬s.rpos.slot.val < Config.NTRK) (hlt : s.rpos.slot.val < 2 * Config.NTRK)
    (h : mixTrk (mixTrackOf s.rpos.slot hlt) s = .ok u) : slotStep s = .ok (u.setSlot (s.rpos.slot + 1)) := by
  rw [slotStep, dif_neg hge, dif_pos hlt, h, ← nextSlot_eq]

theorem slotStep_of_mixEmit {s : State} (h : ¬s.rpos.slot.val < 2 * Config.NTRK) :
    slotStep s = .ok (mixEmit (s.setSlot 0)) := by
  rw [slotStep, dif_neg fun hlt => h (hlt.trans (by decide)), dif_neg h]

theorem scheduled_of_seqTick {q : Fin Config.NSLOT} (h : q.val < Config.NTRK) :
    scheduled q = .seqTick (trackField ⟨q.val, h⟩) := if_pos h

theorem scheduled_of_mixTrk {q : Fin Config.NSLOT} (hge : ¬q.val < Config.NTRK) (hlt : q.val < 2 * Config.NTRK) :
    scheduled q = .mixTrk (trackField (mixTrackOf q hlt)) := (if_neg hge).trans (if_pos hlt)

theorem scheduled_of_mixEmit {q : Fin Config.NSLOT} (h : ¬q.val < 2 * Config.NTRK) : scheduled q = .mixEmit :=
  (if_neg fun hlt => h (Nat.lt_of_lt_of_le hlt (by decide))).trans (if_neg h)

/-- MIX.TRK answers in DIRECT mode only what its unit operation answers. -/
theorem mixTrk_of_exec {k : Fin Config.NTRK} {s u : State} (hdirect : s.status.active = false)
    (h : exec (.mixTrk (trackField k)) s = .next u) : mixTrk k s = .ok u := by
  simp only [exec, execMixTrk, onTrack_field, directOnly_of_direct _ _ hdirect] at h
  cases hmix : mixTrk k s with
  | ok w =>
    rw [hmix] at h
    cases h
    rfl
  | error e =>
    rw [hmix] at h
    cases h

/-- SEQ.TICK in ACTIVE mode leaves what it leaves in DIRECT mode. -/
theorem setSlot_seqTick {s : State} (h : s.status.active = true) (k : Fin Config.NTRK) (q : Fin Config.NSLOT) :
    (seqTick k s).setSlot q = activeAt q (seqTick k s.direct) := by
  calc (seqTick k s).setSlot q
    _ = (within s (seqTick k s.direct)).setSlot q := by rw [← seqTick_within]; rfl
    _ = activeAt q (within s.direct (seqTick k s.direct)) := setSlot_within h q _
    _ = activeAt q (seqTick k s.direct) := by rw [← seqTick_within, within_self]

/-- MIX.TRK in ACTIVE mode leaves what it leaves in DIRECT mode. -/
theorem setSlot_mixTrk {k : Fin Config.NTRK} {s u : State} (hactive : s.status.active = true) (h : mixTrk k s.direct = .ok u)
    (q : Fin Config.NSLOT) : ∃ w, mixTrk k s = .ok w ∧ w.setSlot q = activeAt q u := by
  obtain ⟨v, e, r, s1, s2, t, hchain, rfl⟩ := mixTrk_eq_ok_iff.1 h
  obtain ⟨-, -, ht⟩ := hchain.eq_within
  refine ⟨_, mixTrk_eq_ok_iff.2 ⟨v, e, r, _, _, _, hchain.inSurroundings s, rfl⟩, ?_⟩
  calc (accumulate k _ _ (within s t)).setSlot q
    _ = accumulate k _ _ ((within s t).setSlot q) := rfl
    _ = activeAt q (accumulate k _ _ t) := by rw [setSlot_within hactive, ← ht]; rfl

/-- A slot of the agent leaves what its command leaves in DIRECT mode, in ACTIVE mode at the next slot (R236, R238). -/
theorem slotStep_of_exec {s u : State} (hactive : s.status.active = true)
    (h : exec (scheduled s.rpos.slot) s.direct = .next u) : slotStep s = .ok (activeAt (s.rpos.slot + 1) u) := by
  by_cases hseq : s.rpos.slot.val < Config.NTRK
  · rw [scheduled_of_seqTick hseq, exec_seqTick _ rfl] at h
    cases h
    rw [slotStep_of_seqTick hseq, setSlot_seqTick hactive]
  · by_cases hmix : s.rpos.slot.val < 2 * Config.NTRK
    · rw [scheduled_of_mixTrk hseq hmix] at h
      obtain ⟨w, hw, hslot⟩ := setSlot_mixTrk hactive (mixTrk_of_exec rfl h) (s.rpos.slot + 1)
      rw [slotStep_of_mixTrk hseq hmix hw, hslot]
    · rw [scheduled_of_mixEmit hmix, exec_mixEmit rfl] at h
      cases h
      rw [slotStep_of_mixEmit hmix, succ_of_last hmix, ← activeAt_direct hactive, mixEmit_activeAt]

end Sys2Proof.Laws
end

section
/-! PROOF. The agent's turn (O7) and its slots (O8). -/

namespace Sys2Proof.Proofs

open Sys2Proof Sys2Proof.Machine Sys2Proof.Laws

/-- Settles O8: an enabled turn that does not dispose is the slot, and the slot is its command's operation with the mode put in. -/
theorem agentSlotIsCommand : Obligations.AgentSlotIsCommand := by
  intro s u hactive hslot h
  have hrunning : ¬NoSlot s := fun hno => hno.elim (fun hidle => Bool.false_ne_true (hidle.symm.trans hactive)) hslot
  rw [agentTurn_of_slot hrunning, slotStep_of_exec hactive h]
  rfl

/-- Settles O7: the three cases are those in which a turn is not enabled, and the one in which it disposes. -/
theorem agentWaitsOrDisposes : Obligations.AgentWaitsOrDisposes := by
  intro s rest hturns
  have hstep : step s = agentTurn { s with inputs := { s.inputs with turns := rest } } := by
    rw [← dropTurn_of_turns hturns, step, hturns]
  rw [hstep]
  refine ⟨fun hwaiting => agentTurn_of_waiting (agentEnabled_eq_false_iff.2 hwaiting), fun hactive hframe hslot hstopped => ?_⟩
  have hdisposing : State.disposing { s with inputs := { s.inputs with turns := rest } } = true :=
    disposing_iff.2 ⟨hframe, hslot, hstopped⟩
  exact ⟨_, agentTurn_of_disposing (agentEnabled_of_disposing hactive hdisposing) hdisposing, rfl, rfl, rfl, rfl⟩

end Sys2Proof.Proofs
end

section
/-! SUPPORT. What a step can do to STATUS: the moves of the engine that R234 lists, each with the turn that makes it. -/

namespace Sys2Proof.Laws

open Sys2Proof Sys2Proof.Machine

/-! ## Moves -/

/-- One move of the engine from STATUS st at the render position p, in a step that takes the turn `turn`. -/
inductive EngineMove (turn : Option Turn) (st : Status) (p : RenderPos) : Status → Prop
  /-- A sink may be dropped by a handoff; nothing else of STATUS moves (R239). -/
  | sinks (dev cap : Bool) : EngineMove turn st p { st with devok := st.devok && dev, capok := st.capok && cap }
  /-- ENG.START with both answers 1 (R230). -/
  | start (hturn : turn = some (.command 0x08000000)) (hactive : st.active = false) (hfatal : st.fatal = false) :
    EngineMove turn st p { st with running := true, active := true, paused := false, devok := true, capok := true }
  /-- ENG.START with an answer 0 (R230). -/
  | abort (hturn : turn = some (.command 0x08000000)) (hactive : st.active = false) :
    EngineMove turn st p { st with fatal := true }
  /-- ENG.STOP (R231). -/
  | stop (hturn : turn = some (.command 0x09000000)) (hrunning : st.running = true) :
    EngineMove turn st p { st with running := false }
  /-- ENG.PAUSE (R232). -/
  | pause (hturn : turn = some (.command 0x0A000000)) (hrunning : st.running = true) :
    EngineMove turn st p { st with paused := true }
  /-- ENG.RESUME (R233). -/
  | resume (hturn : turn = some (.command 0x0B000000)) (hrunning : st.running = true) :
    EngineMove turn st p { st with paused := false }
  /-- The dispose step, at the boundary with RUNNING = 0 (R237, R240). -/
  | dispose (hactive : st.active = true) (hstopped : st.running = false) (hframe : p.pframe = 0) (hslot : p.slot = 0) :
    EngineMove turn st p { st with active := false, paused := false, devok := false, capok := false }
  /-- The reset input (R290). -/
  | reset (hturn : turn = some .reset) : EngineMove turn st p Status.reset

theorem EngineMove.of_eq {turn : Option Turn} {st st' : Status} {p : RenderPos} (h : st' = st) : EngineMove turn st p st' := by
  have hsinks := EngineMove.sinks (turn := turn) (st := st) (p := p) true true
  rw [Bool.and_true, Bool.and_true] at hsinks
  exact h ▸ hsinks

/-! ## What leaves STATUS -/

/-- STATUS is in the surroundings of the tracks. -/
theorem status_of_eq_within {s u : State} (h : u = within s u) : u.status = s.status := by
  rw [h]
  rfl

theorem oscTick_status {k : Fin Config.NTRK} {s u : State} {y : F32} (h : oscTick k s = .ok (y, u)) : u.status = s.status :=
  status_of_eq_within (eq_within_of_ok h (oscTick_within s h))

theorem smpTick_status {k : Fin Config.NTRK} {s u : State} {y : F32} (h : smpTick k s = .ok (y, u)) : u.status = s.status :=
  status_of_eq_within (eq_within_of_ok h (smpTick_within s h))

theorem apfProc_status {k : Fin Config.NTRK} {v : Fin Config.NSTAGE} {x y : F32} {s u : State}
    (h : apfProc k v x s = .ok (y, u)) : u.status = s.status :=
  status_of_eq_within (eq_within_of_ok h (apfProc_within s h))

theorem voxTick_status {k : Fin Config.NTRK} {s u : State} {v : Voice} (h : voxTick k s = .ok (v, u)) : u.status = s.status :=
  status_of_eq_within (eq_within_of_ok h (voxTick_within s h))

theorem revProc_status {k : Fin Config.NTRK} {s u : State} {y : F32 × F32} (h : revProc k s = .ok (y, u)) :
    u.status = s.status :=
  status_of_eq_within (eq_within_of_ok h (revProc_within s h))

theorem mixTrk_status {k : Fin Config.NTRK} {s u : State} (h : mixTrk k s = .ok u) : u.status = s.status := by
  obtain ⟨v, e, r, s1, s2, t, hchain, rfl⟩ := mixTrk_eq_ok_iff.1 h
  obtain ⟨-, -, ht⟩ := hchain.eq_within
  have hstatus : t.status = s.status := status_of_eq_within ht
  exact hstatus

theorem postIncrement_status (post : Bool) (ra : Reg) (a : Word) (s : State) : (postIncrement post ra a s).status = s.status := by
  cases post <;> rfl

theorem memWrite_status (sp : Space) (a : Nat) (v : Word) (s : State) : (s.memWrite sp a v).status = s.status := by
  cases sp with
  | pn | pp | pa | ps => exact setByteAt_status ..
  | wt | ft | sm | dl | dr | ap | pb => exact setWordAt_status ..

theorem globalWrite_status {g : GlobalReg} {v : Word} {s u : State} (h : g.write v s = some u) : u.status = s.status := by
  cases g <;> cases h
  exact ackErr_status s v

/-- MIX.EMIT may drop a sink and changes nothing else of STATUS (R229, R239). -/
theorem mixEmit_status (s : State) : ∃ dev cap,
    (mixEmit s).status = { s.status with devok := s.status.devok && dev, capok := s.status.capok && cap } := by
  unfold mixEmit
  split
  · refine ⟨true, true, ?_⟩
    rw [Bool.and_true, Bool.and_true]
    rfl
  · obtain ⟨hstatus, -, -⟩ := offers_effect (s := storeFrame s) (t := storeFrame s) rfl rfl rfl
    exact ⟨_, _, hstatus⟩

/-- The commands that may change STATUS: those of the engine, and MIX.EMIT by a handoff. -/
def movesEngine (i : Instr) : Bool :=
  match i with
  | .engStart | .engStop | .engPause | .engResume | .mixEmit => true
  | _ => false

theorem execCsrr_status (rd : Reg) (t : BitVec 4) (csr : BitVec 8) (s : State) :
    Ensures (execCsrr rd t csr s) fun u => u.status = s.status := by
  have hraise : ∀ c w, (s.raise c w).status = s.status := fun _ _ => rfl
  unfold execCsrr
  refine .ite (.reject hraise _) (.ite ?_ ?_)
  · cases globalReg csr with
    | some g => exact .next rfl
    | none => exact .reject hraise _
  · cases trackReg csr with
    | some r => exact .onTrack hraise fun k => .next rfl
    | none => exact .reject hraise _

theorem execCsrw_status (t : BitVec 4) (csr : BitVec 8) (rs : Reg) (s : State) :
    Ensures (execCsrw t csr rs s) fun u => u.status = s.status := by
  have hraise : ∀ c w, (s.raise c w).status = s.status := fun _ _ => rfl
  unfold execCsrw
  refine .ite (.reject hraise _) (.ite ?_ ?_)
  · cases globalReg csr with
    | none => exact .reject hraise _
    | some g =>
      dsimp only
      split
      · exact .next (globalWrite_status ‹_›)
      · exact .reject hraise _
  · cases trackReg csr with
    | none => exact .reject hraise _
    | some r =>
      refine .onTrack hraise fun k => ?_
      split
      · exact .next (by simp)
      · exact .reject hraise _

/-- Every other command leaves STATUS. -/
theorem exec_status {i : Instr} (hi : movesEngine i = false) (s : State) : Ensures (exec i s) fun u => u.status = s.status := by
  have hraise : ∀ c w, (s.raise c w).status = s.status := fun _ _ => rfl
  have hsetX : ∀ {u : State} {rd : Reg} {y : Word}, u.status = s.status → (u.setX rd y).status = s.status := id
  cases i <;> unfold exec
  case engStart | engStop | engPause | engResume | mixEmit => cases hi
  case nop | lil | lih | cvtS16 | mixCvt => exact .next rfl
  case csrr rd t csr => exact execCsrr_status rd t csr s
  case csrw t csr rs => exact execCsrw_status t csr rs s
  case ldm rd n ra post =>
    exact .onSpace hraise fun sp => .ite (.next (postIncrement_status post ra _ s)) (.reject hraise _)
  case stm n ra post rv =>
    exact .onSpace hraise fun sp => .ite (.reject hraise _) <| .ite (.reject hraise _) <|
      .ite (.next ((postIncrement_status post ra _ _).trans (memWrite_status sp _ _ s))) (.reject hraise _)
  case smpSets | dlySett | revRst | seqRnds | seqRndr | mixPan => exact .onTrack hraise fun k => .next (by simp)
  case oscSetf | smpTrig | dlyIn | dlyOut | revIn | seqTick | voxTrig | voxOff =>
    exact .onTrack hraise fun k => .directOnly hraise (.next (by simp))
  case oscTick => exact .onTrack hraise fun k => .directOnly hraise (.resultToX fun y u h => hsetX (oscTick_status h))
  case smpTick => exact .onTrack hraise fun k => .directOnly hraise (.resultToX fun y u h => hsetX (smpTick_status h))
  case wtSeal n => exact .directOnly hraise (.next (by simp))
  case apfProc =>
    exact .onTrack hraise fun k => .onStage hraise fun w => .directOnly hraise (.resultToX fun y u h => hsetX (apfProc_status h))
  case apfMute => exact .onTrack hraise fun k => .onStage hraise fun w => .directOnly hraise (.next (by simp))
  case hpfProc =>
    refine .onTrack hraise fun k => .onHighPass hraise fun w => .directOnly hraise (.resultToX fun y u h => ?_)
    cases h
    rfl
  case hpfSetc => exact .onTrack hraise fun k => .onHighPass hraise fun w => .next (by simp)
  case revProc =>
    refine .onTrack hraise fun k => .directOnly hraise ?_
    split
    · case h_1 y u h => exact .next ((setPair_status ..).trans (revProc_status h))
    · exact .fault _
  case voxTick =>
    refine .onTrack hraise fun k => .directOnly hraise ?_
    split
    · case h_1 v u h => exact .next ((setQuad_status ..).trans (voxTick_status h))
    · exact .fault _
  case mixTrk => exact .onTrack hraise fun k => .directOnly hraise (.resultOf fun u h => mixTrk_status h)

/-! ## The step -/

/-- An engine command that is not rejected found RUNNING set (R231 to R233). -/
theorem ensures_whenRunning {P : State → Prop} {s : State} {i : Instr} {run : Result} (hraise : ∀ c w, P (s.raise c w))
    (h : s.status.running = true → Ensures run P) : Ensures (whenRunning i s run) P := by
  unfold whenRunning
  split
  · case isTrue hrunning => exact h hrunning
  · exact .reject hraise _

theorem beginRun_status (s : State) : (beginRun s).status =
    { s.status with running := true, active := true, paused := false, devok := true, capok := true } := rfl

theorem abortStart_status (dev cap : Bool) (s : State) : (abortStart dev cap s).status = { s.status with fatal := true } := by
  rw [abortStart, flagIf_status, flagIf_status]

theorem execEngStart_engineMove (s : State) :
    Ensures (execEngStart s) fun u => EngineMove (some (.command 0x08000000)) s.status s.rpos u.status := by
  have hraise : ∀ c w, EngineMove (some (.command 0x08000000)) s.status s.rpos (s.raise c w).status := fun _ _ => .of_eq rfl
  unfold execEngStart
  split
  · exact .reject hraise _
  · case isFalse hadmitted =>
    rw [Bool.or_eq_true, not_or, Bool.not_eq_true, Bool.not_eq_true] at hadmitted
    obtain ⟨hactive, hfatal⟩ := hadmitted
    refine .ite (.next ?_) (.next ?_)
    · rw [beginRun_status, afterDraw_status, afterDraw_status]
      exact .start rfl hactive hfatal
    · rw [abortStart_status, afterDraw_status, afterDraw_status]
      exact .abort rfl hactive

/-- A command moves the engine as its own word does. -/
theorem exec_engineMove (i : Instr) (s : State) :
    Ensures (exec i s) fun u => EngineMove (some (.command (encode i))) s.status s.rpos u.status := by
  cases hi : movesEngine i
  case false => exact fun u h => .of_eq (exec_status hi s u h)
  case true =>
    have hraise : ∀ turn c w, EngineMove turn s.status s.rpos (s.raise c w).status := fun _ _ _ => .of_eq rfl
    cases i <;> try cases hi
    case engStart => exact execEngStart_engineMove s
    case engStop => exact ensures_whenRunning (hraise _) fun hrunning => .next (.stop (by decide) hrunning)
    case engPause => exact ensures_whenRunning (hraise _) fun hrunning => .next (.pause (by decide) hrunning)
    case engResume => exact ensures_whenRunning (hraise _) fun hrunning => .next (.resume (by decide) hrunning)
    case mixEmit =>
      obtain ⟨dev, cap, hstatus⟩ := mixEmit_status s
      refine .directOnly (hraise _) (.next ?_)
      rw [hstatus]
      exact .sinks dev cap

theorem commandTurn_engineMove (w : Word) (s : State) :
    Ensures (commandTurn w s) fun u => EngineMove (some (.command w)) s.status s.rpos u.status := by
  unfold commandTurn
  split
  · case h_1 i hdecode =>
    obtain ⟨hword, -⟩ := decode_eq_ok_iff.1 hdecode
    rw [← hword]
    exact exec_engineMove i s
  · exact .next (.of_eq rfl)

/-- A slot of the agent may drop a sink, by the handoff of a buffer, and leaves all else of STATUS. -/
theorem slotStep_engineMove {s u : State} (turn : Option Turn) (h : slotStep s = .ok u) :
    EngineMove turn s.status s.rpos u.status := by
  unfold slotStep at h
  split at h
  · cases h
    exact .of_eq (by simp)
  · split at h
    · split at h
      · case h_1 v hmix =>
        cases h
        exact .of_eq ((setSlot_status v _).trans (mixTrk_status hmix))
      · cases h
    · cases h
      obtain ⟨dev, cap, hstatus⟩ := mixEmit_status (s.setSlot 0)
      rw [hstatus]
      exact .sinks dev cap

/-- The agent's turn waits, ends a run by the dispose step, or runs its slot (R237). -/
theorem agentTurn_engineMove (turn : Option Turn) (s : State) :
    Ensures (agentTurn s) fun u => EngineMove turn s.status s.rpos u.status := by
  by_cases hno : NoSlot s
  · cases henabled : s.agentEnabled with
    | false =>
      rw [agentTurn_of_waiting henabled]
      exact .next (.of_eq rfl)
    | true =>
      have hdisposing : s.disposing = true := by rwa [noSlot_iff, henabled, Bool.true_and, Bool.not_eq_false'] at hno
      obtain ⟨hframe, hslot, hstopped⟩ := disposing_iff.1 hdisposing
      rw [agentTurn_of_disposing henabled hdisposing]
      exact .next (.dispose (active_of_agentEnabled henabled) hstopped hframe hslot)
  · rw [agentTurn_of_slot hno]
    exact .resultOf fun u h => slotStep_engineMove turn h

/-- Whoever's turn it is, a step moves the engine only as `EngineMove` lists. -/
theorem step_engineMove {s u : State} (h : step s = .next u) :
    EngineMove s.inputs.turns.head? s.status s.rpos u.status := by
  cases hturns : s.inputs.turns with
  | nil =>
    rw [step, hturns] at h
    exact agentTurn_engineMove _ s u h
  | cons turn rest =>
    rw [step, hturns] at h
    cases turn with
    | command w => exact commandTurn_engineMove w s.dropTurn u h
    | agent => exact agentTurn_engineMove _ s.dropTurn u h
    | reset =>
      cases h
      exact .reset rfl

/-! ## R234 -/

theorem active_of_running {st : Status} (hlegal : st.Legal) (hrunning : st.running = true) : st.active = true := by
  obtain ⟨hidle, -⟩ := hlegal
  by_contra hactive
  obtain ⟨hstopped, -⟩ := hidle (Bool.eq_false_iff.2 hactive)
  exact absurd hrunning (Bool.eq_false_iff.1 hstopped)

theorem active_of_paused {st : Status} (hlegal : st.Legal) (hpaused : st.paused = true) : st.active = true := by
  obtain ⟨hidle, -⟩ := hlegal
  by_contra hactive
  obtain ⟨-, hunpaused, -⟩ := hidle (Bool.eq_false_iff.2 hactive)
  exact absurd hpaused (Bool.eq_false_iff.1 hunpaused)

namespace EngineMove

variable {turn : Option Turn} {st st' : Status} {p : RenderPos}

/-- No other combination of the four bits occurs (R234). -/
theorem legal (h : EngineMove turn st p st') (hlegal : st.Legal) : st'.Legal := by
  obtain ⟨hidle, hrun⟩ := hlegal
  cases h with
  | sinks dev cap =>
    refine ⟨fun hactive => ?_, hrun⟩
    obtain ⟨hstopped, hpaused, hdev, hcap⟩ := hidle hactive
    exact ⟨hstopped, hpaused, by simp [hdev], by simp [hcap]⟩
  | start hturn hactive hfatal => exact ⟨nofun, fun _ => hfatal⟩
  | abort hturn hactive => exact ⟨hidle, fun hactive' => absurd hactive' (Bool.eq_false_iff.1 hactive)⟩
  | stop hturn hrunning =>
    refine ⟨fun hactive => ?_, hrun⟩
    obtain ⟨-, hrest⟩ := hidle hactive
    exact ⟨rfl, hrest⟩
  | pause hturn hrunning | resume hturn hrunning =>
    exact ⟨fun hactive => absurd (active_of_running ⟨hidle, hrun⟩ hrunning) (Bool.eq_false_iff.1 hactive), hrun⟩
  | dispose hactive hstopped => exact ⟨fun _ => ⟨hstopped, rfl, rfl, rfl⟩, nofun⟩
  | reset hturn => decide

/-- FATAL goes only by reset. -/
theorem fatal_stays (h : EngineMove turn st p st') (hfatal : st.fatal = true) : st'.fatal = true ∨ turn = some .reset := by
  cases h with
  | reset hturn => exact .inr hturn
  | abort hturn hactive => exact .inl rfl
  | sinks | start | stop | pause | resume | dispose => exact .inl hfatal

/-- FATAL comes only by ENG.START from IDLE. -/
theorem fatal_set (h : EngineMove turn st p st') (hfatal : st.fatal = false) (hfatal' : st'.fatal = true) :
    turn = some (.command 0x08000000) ∧ st.active = false ∧ st'.active = false := by
  cases h with
  | abort hturn hactive => exact ⟨hturn, hactive, hactive⟩
  | reset => cases hfatal'
  | sinks | start | stop | pause | resume | dispose => exact absurd hfatal' (Bool.eq_false_iff.1 hfatal)

/-- PAUSED comes only by ENG.PAUSE of a running engine. -/
theorem paused_set (h : EngineMove turn st p st') (hpaused : st.paused = false) (hpaused' : st'.paused = true) :
    turn = some (.command 0x0A000000) ∧ st.running = true := by
  cases h with
  | pause hturn hrunning => exact ⟨hturn, hrunning⟩
  | start | resume | dispose | reset => cases hpaused'
  | sinks | abort | stop => exact absurd hpaused' (Bool.eq_false_iff.1 hpaused)

/-- PAUSED goes only by reset, ENG.RESUME or the end of a run. -/
theorem paused_cleared (h : EngineMove turn st p st') (hlegal : st.Legal) (hpaused : st.paused = true)
    (hpaused' : st'.paused = false) :
    turn = some .reset ∨ turn = some (.command 0x0B000000) ∨ st'.active = false := by
  cases h with
  | reset hturn => exact .inl hturn
  | resume hturn hrunning => exact .inr (.inl hturn)
  | dispose => exact .inr (.inr rfl)
  | start hturn hactive => exact absurd (active_of_paused hlegal hpaused) (Bool.eq_false_iff.1 hactive)
  | pause => cases hpaused'
  | sinks | abort | stop => exact absurd hpaused (Bool.eq_false_iff.1 hpaused')

/-- A run begins only by ENG.START outside FATAL, running and not paused. -/
theorem active_set (h : EngineMove turn st p st') (hactive : st.active = false) (hactive' : st'.active = true) :
    turn = some (.command 0x08000000) ∧ st.fatal = false ∧ st'.running = true ∧ st'.paused = false := by
  cases h with
  | start hturn _ hfatal => exact ⟨hturn, hfatal, rfl, rfl⟩
  | dispose | reset => cases hactive'
  | sinks | abort | stop | pause | resume => exact absurd hactive' (Bool.eq_false_iff.1 hactive)

/-- A run ends only by reset or at the boundary with RUNNING = 0. -/
theorem active_cleared (h : EngineMove turn st p st') (hactive : st.active = true) (hactive' : st'.active = false) :
    turn = some .reset ∨ (st.running = false ∧ p.pframe = 0 ∧ p.slot = 0) := by
  cases h with
  | reset hturn => exact .inl hturn
  | dispose _ hstopped hframe hslot => exact .inr ⟨hstopped, hframe, hslot⟩
  | start => cases hactive'
  | sinks | abort | stop | pause | resume => exact absurd hactive (Bool.eq_false_iff.1 hactive')

/-- RUNNING does not come back within a run. -/
theorem stopped_stays (h : EngineMove turn st p st') (hactive : st.active = true) (hstopped : st.running = false) :
    st'.running = false := by
  cases h with
  | start _ hidle => exact absurd hactive (Bool.eq_false_iff.1 hidle)
  | stop | reset => rfl
  | sinks | abort | pause | resume | dispose => exact hstopped

/-- RUNNING goes only by reset or ENG.STOP. -/
theorem running_cleared (h : EngineMove turn st p st') (hrunning : st.running = true) (hrunning' : st'.running = false) :
    turn = some .reset ∨ turn = some (.command 0x09000000) := by
  cases h with
  | reset hturn => exact .inl hturn
  | stop hturn => exact .inr hturn
  | start => cases hrunning'
  | sinks | abort | pause | resume | dispose => exact absurd hrunning (Bool.eq_false_iff.1 hrunning')

end EngineMove

end Sys2Proof.Laws
end

section
/-! PROOF. The states of the engine (O54). -/

namespace Sys2Proof.Proofs

open Sys2Proof Sys2Proof.Machine Sys2Proof.Laws

/-- Settles O54: every step is one of eight moves, and each clause is a case split over the moves. -/
theorem engineStatesAndTransitions : Obligations.EngineStatesAndTransitions := by
  intro s u hlegal hstep
  have hmove := step_engineMove hstep
  exact ⟨hmove.legal hlegal, hmove.fatal_stays, hmove.fatal_set, hmove.paused_set, hmove.paused_cleared hlegal, hmove.active_set,
    hmove.active_cleared, hmove.stopped_stays, hmove.running_cleared⟩

end Sys2Proof.Proofs
end

section
/-! SUPPORT. INIT (R294): what it leaves of a track, and that the bytes it puts back to their reset contents are those of the elements
of DL, DR and AP. -/

namespace Sys2Proof.Laws

open Sys2Proof Sys2Proof.Machine

/-! ## ENG.START -/

theorem exec_engStart_of_answers {s : State} (hactive : s.status.active = false) (hfatal : s.status.fatal = false)
    (hdev : s.nextBit = true) (hcap : s.afterDraw.nextBit = true) : exec .engStart s = .next (beginRun s.afterDraw.afterDraw) := by
  simp only [exec, execEngStart, hactive, hfatal, hdev, hcap, Bool.or_self, Bool.and_self, Bool.false_eq_true, if_false, if_true]

theorem exec_engStart_of_failure {s : State} (hactive : s.status.active = false) (hfatal : s.status.fatal = false)
    (h : s.nextBit = false ∨ s.afterDraw.nextBit = false) :
    exec .engStart s = .next (abortStart s.nextBit s.afterDraw.nextBit s.afterDraw.afterDraw) := by
  have hfailed : (s.nextBit && s.afterDraw.nextBit) = false := Bool.and_eq_false_iff.2 h
  simp only [exec, execEngStart, hactive, hfatal, hfailed, Bool.or_self, Bool.false_eq_true, if_false]

/-- An abort reports each failed answer (R230, R266). -/
theorem abortStart_err (dev cap : Bool) (s : State) :
    (abortStart dev cap s).err = s.err ||| (if dev then 0 else 0x200) ||| (if cap then 0 else 0x400) := by
  have hdev : Condition.fataldev.bit = 0x200 := by decide
  have hcap : Condition.fatalcap.bit = 0x400 := by decide
  cases dev <;> cases cap <;> simp [abortStart, hdev, hcap]

/-- An abort changes STATUS and ERR alone (R230). -/
theorem abortStart_eq (dev cap : Bool) (s : State) : abortStart dev cap s =
    { s with status := { s.status with fatal := true }, err := (abortStart dev cap s).err } := by
  cases dev <;> cases cap <;> rfl

/-! ## The tracks after INIT -/

theorem initTrack_track_same (s : State) (k : Fin Config.NTRK) : (initTrack s k).track k = initialTrack (s.track k) := by
  simp only [initTrack, revRst, track_setTrack_same, zeroWords_track]
  rfl

theorem initTrack_track_ne (s : State) {k j : Fin Config.NTRK} (h : j ≠ k) : (initTrack s k).track j = s.track j := by
  simp only [initTrack, revRst_track_ne _ h, zeroWords_track, track_setTrack_ne _ _ h]

/-- INIT of some tracks, each once. -/
theorem foldl_initTrack_track {ks : List (Fin Config.NTRK)} (hks : ks.Nodup) (s : State) (k : Fin Config.NTRK) :
    (ks.foldl initTrack s).track k = if k ∈ ks then initialTrack (s.track k) else s.track k := by
  induction ks generalizing s with
  | nil => simp
  | cons j ks ih =>
    obtain ⟨hj, hks⟩ := List.nodup_cons.1 hks
    rw [List.foldl_cons, ih hks]
    rcases eq_or_ne k j with rfl | hne
    · rw [if_neg hj, if_pos List.mem_cons_self, initTrack_track_same]
    · rw [initTrack_track_ne s hne]
      exact if_congr (by simp [hne]) rfl rfl

theorem beginRun_track (s : State) (k : Fin Config.NTRK) : (beginRun s).track k = initialTrack (s.track k) := by
  have hall : ∀ k, k ∈ allTracks := by decide
  rw [track_eq_of_tracks (beginRun_tracks s), foldl_initTrack_track (by decide), if_pos (hall k)]

theorem ofNat_shiftLeft_16 (n : Nat) : BitVec.ofNat 32 n <<< 16 = BitVec.ofNat 32 (n * 65536) := by
  apply BitVec.eq_of_toNat_eq
  rw [BitVec.toNat_shiftLeft, BitVec.toNat_ofNat, BitVec.toNat_ofNat, Nat.shiftLeft_eq, Nat.mod_mul_mod]

theorem initialRead_eq (dlag : Word) :
    initialRead dlag = BitVec.ofNat 32 (((44100 - dlag.toNat : Int) % 44100).toNat * 65536) := by
  unfold initialRead
  exact ofNat_shiftLeft_16 (((44100 - dlag.toNat : Int) % 44100).toNat)

theorem map_clearHistory (v : Vector HighPass Config.NHPF) :
    v.map clearHistory = #v[{ v[0] with x1 := 0, y1 := 0 }, { v[1] with x1 := 0, y1 := 0 }, { v[2] with x1 := 0, y1 := 0 }] := by
  ext i hi : 1
  have hcases : i = 0 ∨ i = 1 ∨ i = 2 := by simp only [Config.NHPF] at hi; omega
  rcases hcases with rfl | rfl | rfl <;> simp [clearHistory]

/-! ## The bytes INIT puts back -/

/-- The bytes of a delay ring (first byte, length). -/
abbrev ringArea (sp : Space) (k : Fin Config.NTRK) : Nat × Nat := (sp.cell (ringAddr k 0), 4 * Config.CAP)

/-- The bytes INIT of a track puts back to their reset contents: both delay rings and the all-pass buffers (R294). -/
abbrev ClearedByInit (k : Fin Config.NTRK) (b : Nat) : Prop :=
  InArea (ringArea .dl k) b ∨ InArea (ringArea .dr k) b ∨ ∃ v, InArea (stageArea k v) b

theorem byte_initTrack (s : State) (k : Fin Config.NTRK) (b : Nat) :
    (initTrack s k).mem.byte b = if ClearedByInit k b then unlisted b else s.mem.byte b := by
  rw [initTrack, revRst, setTrack_mem, byte_muteStages, zeroWords_mem, byte_restore, zeroWords_mem, byte_restore, setTrack_mem,
    ← ite_or, ← ite_or]
  exact if_congr (or_comm.trans (or_congr_right or_comm)) rfl rfl

theorem byte_foldl_initTrack (ks : List (Fin Config.NTRK)) (s : State) (b : Nat) :
    (ks.foldl initTrack s).mem.byte b = if ∃ k ∈ ks, ClearedByInit k b then unlisted b else s.mem.byte b := by
  induction ks generalizing s with
  | nil => simp
  | cons k ks ih =>
    rw [List.foldl_cons, ih, byte_initTrack, ← ite_or]
    exact if_congr (by rw [List.exists_mem_cons_iff, or_comm]) rfl rfl

theorem byte_beginRun (s : State) (b : Nat) :
    (beginRun s).mem.byte b = if ∃ k, ClearedByInit k b then unlisted b else s.mem.byte b := by
  have hall : ∀ k, k ∈ allTracks := by decide
  rw [beginRun_mem, byte_foldl_initTrack]
  exact if_congr (exists_congr fun k => and_iff_right (hall k)) rfl rfl

/-- The bytes of n word elements in a row are those of each. -/
theorem inArea_slots_iff {sp : Space} (hw : sp.width = 4) {addr : Nat → Nat} (haddr : ∀ i, addr i = addr 0 + i) {n b : Nat} :
    InArea (sp.cell (addr 0), 4 * n) b ↔ ∃ i < n, ∃ j < 4, b = sp.cell (addr i) + j := by
  simp only [InArea, Space.cell, hw]
  constructor
  · rintro ⟨hlo, hhi⟩
    have hslot := haddr ((b - (sp.base + 4 * addr 0)) / 4)
    exact ⟨(b - (sp.base + 4 * addr 0)) / 4, by omega, (b - (sp.base + 4 * addr 0)) % 4, by omega, by omega⟩
  · rintro ⟨i, hi, j, hj, rfl⟩
    have hslot := haddr i
    omega

theorem inArea_ringArea_iff {sp : Space} (hw : sp.width = 4) (k : Fin Config.NTRK) {b : Nat} :
    InArea (ringArea sp k) b ↔ ∃ i < Config.CAP, ∃ j < 4, b = sp.cell (ringAddr k i) + j :=
  inArea_slots_iff hw (addr := ringAddr k) (n := Config.CAP) fun i => by simp only [ringAddr, Nat.add_zero]

theorem inArea_stageArea_iff (k : Fin Config.NTRK) (v : Fin Config.NSTAGE) {b : Nat} :
    InArea (stageArea k v) b ↔ ∃ i < Config.REVLEN v, ∃ j < 4, b = Space.ap.cell (stageAddr k v i) + j :=
  inArea_slots_iff rfl (addr := stageAddr k v) (n := Config.REVLEN v) fun i => by simp only [stageAddr, Nat.add_zero]

/-- The bytes INIT puts back are those of the elements of DL, DR and AP (R60, R294). -/
theorem exists_clearedByInit_iff {b : Nat} : (∃ k, ClearedByInit k b) ↔
    ∃ sp a j, (sp = .dl ∨ sp = .dr ∨ sp = .ap) ∧ ElementOf sp a ∧ j < 4 ∧ b = sp.cell a + j := by
  constructor
  · rintro ⟨k, hdl | hdr | ⟨v, hap⟩⟩
    · obtain ⟨i, hi, j, hj, rfl⟩ := (inArea_ringArea_iff rfl k).1 hdl
      exact ⟨.dl, _, j, .inl rfl, elementOf_ringAddr (.inl rfl) k ⟨i, hi⟩, hj, rfl⟩
    · obtain ⟨i, hi, j, hj, rfl⟩ := (inArea_ringArea_iff rfl k).1 hdr
      exact ⟨.dr, _, j, .inr (.inl rfl), elementOf_ringAddr (.inr rfl) k ⟨i, hi⟩, hj, rfl⟩
    · obtain ⟨i, hi, j, hj, rfl⟩ := (inArea_stageArea_iff k v).1 hap
      exact ⟨.ap, _, j, .inr (.inr rfl), elementOf_stageAddr k hi, hj, rfl⟩
  · rintro ⟨sp, a, j, rfl | rfl | rfl, ha, hj, rfl⟩
    · obtain ⟨t, i, ht, hi, rfl⟩ := ha
      exact ⟨⟨t, ht⟩, .inl ((inArea_ringArea_iff rfl ⟨t, ht⟩).2 ⟨i, hi, j, hj, rfl⟩)⟩
    · obtain ⟨t, i, ht, hi, rfl⟩ := ha
      exact ⟨⟨t, ht⟩, .inr (.inl ((inArea_ringArea_iff rfl ⟨t, ht⟩).2 ⟨i, hi, j, hj, rfl⟩))⟩
    · obtain ⟨t, v, i, ht, hi, rfl⟩ := ha
      exact ⟨⟨t, ht⟩, .inr (.inr ⟨v, inArea_stageArea ⟨t, ht⟩ hi hj⟩)⟩

/-- An element of DL, DR or AP whose bytes are its reset contents is +0.0 (R292). -/
theorem memRead_of_unlisted {u : State} {sp : Space} {a : Nat} (hsp : sp = .dl ∨ sp = .dr ∨ sp = .ap) (ha : ElementOf sp a)
    (h : ∀ j < 4, u.mem.byte (sp.cell a + j) = unlisted (sp.cell a + j)) : u.memRead sp a = 0 := by
  have hzero : (u.zeroWords sp a 1).memRead sp a = 0 := by
    have hword := wordAt_zeroWords_inside u hsp (elementOf_lt ha) (n := 1) le_rfl (Nat.lt_succ_self a)
    rcases hsp with rfl | rfl | rfl <;> exact hword
  have hw : sp.width = 4 := by rcases hsp with rfl | rfl | rfl <;> rfl
  rw [← hzero]
  refine memRead_congr fun j hj => ?_
  rw [hw] at hj
  rw [h j hj, zeroWords_mem, byte_restore, if_pos (by omega)]

theorem beginRun_silent (s : State) {sp : Space} {a : Nat} (hsp : sp = .dl ∨ sp = .dr ∨ sp = .ap) (ha : ElementOf sp a) :
    (beginRun s).memRead sp a = 0 :=
  memRead_of_unlisted hsp ha fun j hj => by
    rw [byte_beginRun, if_pos (exists_clearedByInit_iff.2 ⟨sp, a, j, hsp, ha, hj, rfl⟩)]

end Sys2Proof.Laws
end

section
/-! PROOF. ENG.START (O51, O52). -/

namespace Sys2Proof.Proofs

open Sys2Proof Sys2Proof.Machine Sys2Proof.Laws

/-- Settles O51: a start with both answers 1 is INIT and the five flags of a run; INIT takes each track to its starting registers
and clears the bytes of DL, DR and AP alone. -/
theorem startInitialisesAndRuns : Obligations.StartInitialisesAndRuns := by
  intro s hactive hfatal hdev hcap
  obtain ⟨hx, herr, hinfo, hevents, hinputs⟩ := beginRun_frame s.afterDraw.afterDraw
  refine ⟨_, exec_engStart_of_answers hactive hfatal hdev hcap, ?_, fun k => ?_, fun sp a hsp ha => beginRun_silent _ hsp ha,
    fun b hb => ?_, rfl, rfl, rfl, rfl, rfl, ?_⟩
  · simp only [beginRun_status, afterDraw_status, hfatal]
  · rw [beginRun_track, afterDraw_track, afterDraw_track, initialTrack, initRegs, map_clearHistory, initialRead_eq]
  · have hkept : ¬∃ k, ClearedByInit k b := fun hcleared => by
      obtain ⟨sp, a, j, hsp, ha, hj, hbyte⟩ := exists_clearedByInit_iff.1 hcleared
      exact hb sp a j hsp ha hj hbyte
    rw [byte_beginRun, if_neg hkept, afterDraw_mem, afterDraw_mem]
  · rw [hx, herr, hinfo, hevents, hinputs]
    simp

/-- Settles O52: a start with an answer 0 is the abort after both draws. -/
theorem failedStartIsFatal : Obligations.FailedStartIsFatal := by
  intro s hactive hfatal h
  obtain ⟨inputs, hdrawn⟩ : ∃ inputs, s.afterDraw.afterDraw = { s with inputs := inputs } := ⟨_, afterDraws_eq s 2⟩
  refine ⟨_, exec_engStart_of_failure hactive hfatal h, ?_⟩
  rw [abortStart_eq, abortStart_err, hdrawn]
  exact ⟨rfl, rfl, rfl, rfl⟩

end Sys2Proof.Proofs
end

section
/-! PROOF. The reset input (O10). -/

namespace Sys2Proof.Laws

open Sys2Proof Sys2Proof.Machine

theorem step_of_reset {s : State} {rest : List Turn} (h : s.inputs.turns = .reset :: rest) :
    step s = .next { State.reset with inputs := { s.inputs with turns := rest } } := by
  rw [step, h]
  exact congrArg resetTurn (dropTurn_of_turns h)

end Sys2Proof.Laws

namespace Sys2Proof.Proofs

open Sys2Proof Sys2Proof.Machine Sys2Proof.Laws

/-- Settles O10: whatever the state, the reset turn keeps of it only the inputs still to come. -/
theorem resetFromAnyState : Obligations.ResetFromAnyState :=
  fun _ _ hturns => ⟨_, step_of_reset hturns, rfl, rfl, rfl⟩

end Sys2Proof.Proofs
end

section
/-! PROOF. The registers after reset (O11). -/

namespace Sys2Proof.Laws

open Sys2Proof Sys2Proof.Machine

/-- The reset column of R26 is what the global registers read as after reset. -/
theorem globalRegisters_reset : globalRegisters State.reset = globalResetValues := by decide

/-- The reset column of R28 is what the registers of a track read as after reset. -/
theorem trackRegisters_reset : trackRegisters Track.reset = trackResetValues := by decide

end Sys2Proof.Laws

namespace Sys2Proof.Proofs

open Sys2Proof Sys2Proof.Machine Sys2Proof.Laws

/-- Settles O11: the reset columns are what the registers read as in the reset state, and CSRR returns what a register reads as. -/
theorem resetRegisters : Obligations.ResetRegisters := by
  refine ⟨fun r => Vector.getElem_replicate _, rfl, fun rd => ⟨fun p hp => ?_, fun k p hp => ?_⟩⟩
  · rw [← globalRegisters_reset] at hp
    obtain ⟨g, hg, hread⟩ := globalReg_of_mem hp
    rw [exec_csrr_global hg, hread]
  · rw [← trackRegisters_reset] at hp
    obtain ⟨r, hr, hread⟩ := mem_trackRegisters.1 hp
    rw [exec_csrr_track hr, reset_track, hread]

end Sys2Proof.Proofs
end

section
/-! SUPPORT. The reset contents of the elements: what the unlisted bytes of each space are (R292, R293). -/

namespace Sys2Proof.Laws

open Sys2Proof Sys2Proof.Machine

/-! ## The bytes -/

/-- FT holds its image, four bytes a note (R293). -/
theorem unlisted_ft {n j : Nat} (hn : n < 128) (hj : j < 4) :
    unlisted (Space.ft.cell n + j) = (ftImage.getD n 0).extractLsb' (8 * j) 8 := by
  have hcell : Space.ft.cell n + j = 2 ^ 34 + (4 * n + j) := by simp only [Space.cell, Space.base, Space.index, Space.width]; omega
  have hspace : (2 ^ 34 + (4 * n + j)) / 2 ^ 34 = 1 := by omega
  have hnote : (2 ^ 34 + (4 * n + j)) % 2 ^ 34 / 4 = n := by omega
  have hbyte : (2 ^ 34 + (4 * n + j)) % 4 = j := by omega
  rw [hcell, unlisted, if_pos hspace, hnote, hbyte]

/-- Every step of every pattern is paused (R292). -/
theorem unlisted_pp {a : Nat} (ha : a < 64) : unlisted (Space.pp.cell a) = 1 := by
  have hcell : Space.pp.cell a = 4 * 2 ^ 34 + a := by simp only [Space.cell, Space.base, Space.index, Space.width]; omega
  have hspace : (4 * 2 ^ 34 + a) / 2 ^ 34 = 4 := by omega
  have hstep : (4 * 2 ^ 34 + a) % 2 ^ 34 < Config.NTRK * Config.NSTEP := by simp only [Config.NTRK, Config.NSTEP]; omega
  rw [hcell, unlisted, if_neg (by rw [hspace]; decide), if_pos ⟨hspace, hstep⟩]

/-! ## The elements -/

/-- After reset FT[n] is word n of its image. -/
theorem ft_reset {n : Nat} (hn : n < 128) : State.reset.ft n = ftImage.getD n 0 := by
  have hword := bytes_of_word (ftImage.getD n 0)
  rw [← unlisted_ft hn (j := 3) (by decide), ← unlisted_ft hn (j := 2) (by decide), ← unlisted_ft hn (j := 1) (by decide),
    ← unlisted_ft hn (j := 0) (by decide)] at hword
  exact hword

/-- After reset an element of a space other than FT and PP is +0.0, a note 0 or a flag 0 (R292). -/
theorem memRead_reset_of_silent {sp : Space} {a : Nat} (ha : ElementOf sp a) (hft : sp ≠ .ft) (hpp : sp ≠ .pp) :
    State.reset.memRead sp a = 0 := by
  have hzero : ∀ j < sp.width, State.reset.mem.byte (sp.cell a + j) = 0 := fun j hj => unlisted_cell (elementOf_lt ha) hj hft hpp
  have hbyte : State.reset.mem.byte (sp.cell a) = 0 := by simpa using hzero 0 (width_pos sp)
  have hword : sp.width = 4 → State.reset.wordAt sp a = 0 := by
    intro hw
    rw [hw] at hzero
    rw [State.wordAt, Memory.word, hbyte, hzero 1 (by decide), hzero 2 (by decide), hzero 3 (by decide)]
    rfl
  cases sp with
  | ft | pp => contradiction
  | pn | pa | ps =>
    rw [State.memRead, State.byteAt, hbyte]
    rfl
  | wt | sm | dl | dr | ap | pb => exact hword rfl

/-! ## The image of FT -/

/-- The 128 words of the image are the twelve notes of R293, an octave the exponent one higher. -/
theorem ftImage_eq : ∀ n : Fin 128, ftImage.getD n.val 0 = resetElement .ft n.val := by decide

theorem ftImage_not_nan : ∀ n : Fin 128, isNaN (ftImage.getD n.val 0) = false := by decide

theorem ftImage_increasing : ∀ n : Fin 127, flt (ftImage.getD n.val 0) (ftImage.getD (n.val + 1) 0) = true := by decide

theorem ftImage_lt_f22050 : ∀ n : Fin 128, flt (ftImage.getD n.val 0) f22050 = true := by decide

/-- Note 69 is the concert pitch. -/
theorem valueOf_ftImage_69 : valueOf (ftImage.getD 69 0) = 440 := by
  simpa using valueOf_eq_of_fields (a := ftImage.getD 69 0) 440 1 (by decide) (by decide)

end Sys2Proof.Laws
end

section
/-! PROOF. The memory after reset (O12). -/

namespace Sys2Proof.Proofs

open Sys2Proof Sys2Proof.Machine Sys2Proof.Laws

/-- Settles O12: the reset memory lists no byte, so FT is its image, PP is all ones and the other spaces are zero. -/
theorem resetMemory : Obligations.ResetMemory := by
  refine ⟨fun sp a ha => ?_, ⟨fun n => ?_, fun n => ?_⟩, fun n => ?_, ?_⟩
  · cases sp with
    | ft => exact (ft_reset ha).trans (ftImage_eq ⟨a, ha⟩)
    | pp =>
      obtain ⟨t, q, ht, hq, rfl⟩ := ha
      have hbyte : State.reset.byteAt .pp (t * 16 + q) = 1 := unlisted_pp (by omega)
      rw [State.memRead, hbyte]
      rfl
    | wt | sm | pn | pa | ps | dl | dr | ap | pb => exact memRead_reset_of_silent ha (by decide) (by decide)
  · rw [ft_reset n.isLt]
    exact ftImage_not_nan n
  · rw [ft_reset (by omega), ft_reset (by omega)]
    exact ftImage_increasing n
  · rw [ft_reset n.isLt]
    exact ftImage_lt_f22050 n
  · rw [ft_reset (by decide)]
    exact valueOf_ftImage_69

end Sys2Proof.Proofs
end

section
/-! SUPPORT. The checks of R263 as one verdict: the first of them a command fails, and that the meaning of every command follows it.
A command that fails one is rejected with its condition; one that passes them all sets no rejection bit, and it stops only where a
unit is out of its range. -/

namespace Sys2Proof.Laws

open Sys2Proof Sys2Proof.Machine

/-! ## The verdict -/

/-- Check 7 as the model makes it. -/
def addressOutside (i : Instr) (s : State) : Bool :=
  match i with
  | .ldm _ n ra _ | .stm n ra _ _ => (spaceOf n).all fun sp => !sp.inRange (s.getX ra).toNat
  | _ => false

theorem addressOutside_iff (i : Instr) (s : State) : addressOutside i s = true ↔ AddressOutside i s := by
  have hspace : ∀ n : BitVec 4, ∀ a, (spaceOf n).all (fun sp => !sp.inRange a) = true ↔
      ∀ sp, spaceOf n = some sp → ¬ElementOf sp a := by
    intro n a
    simp only [Option.all_eq_true, Bool.not_eq_true', ← inRange_iff, Bool.not_eq_true]
  cases i with
  | ldm rd n ra post => exact hspace n _
  | stm n ra post rv => exact hspace n _
  | _ => exact iff_of_false Bool.false_ne_true id

/-- The condition of the first check of R263 that the command fails. -/
def verdict (i : Instr) (s : State) : Option Condition :=
  bif !WellFormed i then some .illcmd
  else bif indexMissing i then some .badidx
  else bif directCommand i && s.status.active then some .busy
  else bif stateRefuses i s.status then some .badstate
  else bif targetReadOnly i then some .access
  else bif addressOutside i s then some .memrange
  else none

/-- An engine command fails no check before the one of the engine state. -/
theorem checks_before_state {i : Instr} {st : Status} (h : stateRefuses i st = true) :
    WellFormed i = true ∧ indexMissing i = false ∧ directCommand i = false := by
  cases i with
  | engStart | engStop | engPause | engResume => exact ⟨rfl, rfl, rfl⟩
  | _ => cases h

/-- A command whose target may be read-only is accepted in both modes and in every engine state. -/
theorem checks_before_target {i : Instr} (h : targetReadOnly i = true) (st : Status) :
    directCommand i = false ∧ stateRefuses i st = false := by
  cases i with
  | csrw t csr rs => exact ⟨rfl, rfl⟩
  | stm n ra post rv =>
    have hn : n.toNat = 10 := by simpa [targetReadOnly] using h
    exact ⟨by simp [directCommand, hn], rfl⟩
  | _ => cases h

/-- A command with an address is well-formed and accepted in every engine state. -/
theorem checks_before_address {i : Instr} {s : State} (h : AddressOutside i s) (st : Status) :
    WellFormed i = true ∧ stateRefuses i st = false := by
  cases i with
  | ldm rd n ra post => exact ⟨rfl, rfl⟩
  | stm n ra post rv => exact ⟨rfl, rfl⟩
  | _ => exact h.elim

theorem verdict_of_rejected {i : Instr} {s : State} {c : Condition} (h : Rejected i s c) : verdict i s = some c := by
  cases c with
  | illcmd =>
    have hwf : WellFormed i = false := h
    simp [verdict, hwf]
  | badidx =>
    obtain ⟨hwf, hindex⟩ := h
    simp [verdict, hwf, hindex]
  | busy =>
    obtain ⟨hwf, hindex, hdirect, hactive⟩ := h
    simp [verdict, hwf, hindex, hdirect, hactive]
  | badstate =>
    have hstate : stateRefuses i s.status = true := h
    obtain ⟨hwf, hindex, hdirect⟩ := checks_before_state hstate
    simp [verdict, hwf, hindex, hdirect, hstate]
  | access =>
    obtain ⟨hwf, hindex, htarget⟩ := h
    obtain ⟨hdirect, hstate⟩ := checks_before_target htarget s.status
    simp [verdict, hwf, hindex, hdirect, hstate, htarget]
  | memrange =>
    obtain ⟨hindex, hmode, htarget, haddress⟩ := h
    obtain ⟨hwf, hstate⟩ := checks_before_address haddress s.status
    simp [verdict, hwf, hindex, hmode, hstate, htarget, (addressOutside_iff i s).2 haddress]
  | clamp | deverr | caperr | fataldev | fatalcap => exact h.elim

theorem rejected_of_verdict {i : Instr} {s : State} {c : Condition} (h : verdict i s = some c) : Rejected i s c := by
  unfold verdict at h
  cases hwf : WellFormed i <;> rw [hwf] at h
  case false => cases h; exact hwf
  cases hindex : indexMissing i <;> rw [hindex] at h
  case true => cases h; exact ⟨hwf, hindex⟩
  cases hmode : directCommand i && s.status.active <;> rw [hmode] at h
  case true => cases h; exact ⟨hwf, hindex, Bool.and_eq_true_iff.1 hmode⟩
  cases hstate : stateRefuses i s.status <;> rw [hstate] at h
  case true => cases h; exact hstate
  cases htarget : targetReadOnly i <;> rw [htarget] at h
  case true => cases h; exact ⟨hwf, hindex, htarget⟩
  cases haddress : addressOutside i s <;> rw [haddress] at h
  case true => cases h; exact ⟨hindex, hmode, htarget, (addressOutside_iff i s).1 haddress⟩
  cases h

/-! ## Commands that pass -/

/-- No rejection: ERRINFO is kept and none of the bits 5:0 of ERR is set anew (R261, R262). -/
def Unrejected (s u : State) : Prop := u.errinfo = s.errinfo ∧ u.err &&& 0x03F &&& ~~~s.err = 0

/-- Bits picked out of a value are among its own. -/
theorem and_and_not_self (a b : BitVec 11) : a &&& b &&& ~~~a = 0 := by
  rw [BitVec.and_comm a, BitVec.and_assoc, BitVec.and_not_self]
  exact BitVec.and_zero

namespace Unrejected

theorem of_frame {s u : State} (h : RenderFrame s u) : Unrejected s u := by
  refine ⟨h.errinfo, ?_⟩
  rw [h.rejections, and_and_not_self]

theorem of_eq {s u : State} (hinfo : u.errinfo = s.errinfo) (herr : u.err = s.err) : Unrejected s u := by
  refine ⟨hinfo, ?_⟩
  rw [herr, and_and_not_self]

/-- It does not matter what is written beside ERR and ERRINFO. -/
theorem congr {s u w : State} (h : Unrejected s u) (hinfo : w.errinfo = u.errinfo) (herr : w.err = u.err) : Unrejected s w := by
  rwa [Unrejected, hinfo, herr]

/-- A condition that is no rejection may be flagged on the way. -/
theorem flagIf {s u : State} (h : Unrejected s u) (b : Bool) {c : Condition} (hc : 6 ≤ c.code) : Unrejected s (u.flagIf b c) := by
  obtain ⟨hinfo, herr⟩ := h
  refine ⟨(flagIf_errinfo u b c).trans hinfo, ?_⟩
  rw [(UnitFrame.flagIf u b hc).rejections, herr]

/-- An acknowledgement only clears bits (R268). -/
theorem ackErr (s : State) (v : Word) : Unrejected s (s.ackErr v) := by
  refine ⟨ackErr_errinfo s v, ?_⟩
  rw [ackErr_err, BitVec.and_assoc s.err, and_and_not_self]

end Unrejected

/-- What a command that passes its checks does: it goes on without a rejection, or it stops because a unit is out of its range. -/
inductive Completes (s : State) : Result → Prop
  | next {u : State} (h : Unrejected s u) : Completes s (.next u)
  | fault (e : Fault) (h : ¬s.UnitsLegal) : Completes s (.fault e)

/-- The outcome of a command follows the verdict on it. -/
inductive Judged (i : Instr) (s : State) : Option Condition → Result → Prop
  | rejects (c : Condition) : Judged i s (some c) (reject c i s)
  | passes {r : Result} (h : Completes s r) : Judged i s none r

/-- A unit operation that answers where the units are legal. -/
theorem Completes.resultToX {s : State} {rd : Reg} {r : Except Fault (F32 × State)}
    (hframe : ∀ y u, r = .ok (y, u) → UnitFrame s u) (hlegal : s.UnitsLegal → ∃ y u, r = .ok (y, u)) :
    Completes s (resultToX rd r) := by
  cases r with
  | ok p => exact .next ((Unrejected.of_frame (hframe p.1 p.2 rfl).toRenderFrame).congr rfl rfl)
  | error e =>
    refine .fault e fun h => ?_
    obtain ⟨y, u, hok⟩ := hlegal h
    cases hok

/-! ## Each check -/

namespace Judged

variable {i : Instr} {s : State} {v : Option Condition} {c : Condition} {r : Result}

theorem check {b : Bool} {p : Prop} [Decidable p] (hb : b = true ↔ p) (h : Judged i s v r) :
    Judged i s (bif b then some c else v) (if p then reject c i s else r) := by
  cases b with
  | true => rw [if_pos (hb.1 rfl)]; exact .rejects c
  | false => rw [if_neg fun hp => Bool.false_ne_true (hb.2 hp)]; exact h

theorem checkNot {b : Bool} (h : Judged i s v r) :
    Judged i s (bif !b then some c else v) (if b = true then r else reject c i s) := by
  cases b with
  | true => exact h
  | false => exact .rejects c

/-- Two tests of one check. -/
theorem or {a b : Bool} (h : Judged i s (bif a then some c else bif b then some c else v) r) :
    Judged i s (bif a || b then some c else v) r := by
  cases a <;> exact h

theorem onTrack {t : BitVec 4} {run : Fin Config.NTRK → Result} (h : ∀ k, Judged i s v (run k)) :
    Judged i s (bif decide (4 ≤ t.toNat) then some .badidx else v) (onTrack i t s run) := by
  by_cases ht : 4 ≤ t.toNat
  · rw [decide_eq_true ht, onTrack_missing i s run ht]
    exact .rejects _
  · rw [decide_eq_false ht, Machine.onTrack, dif_pos (Nat.lt_of_not_le ht)]
    exact h _

theorem onStage {w : BitVec 4} {run : Fin Config.NSTAGE → Result} (h : ∀ k, Judged i s v (run k)) :
    Judged i s (bif decide (8 ≤ w.toNat) then some .badidx else v) (onStage i w s run) := by
  by_cases hw : 8 ≤ w.toNat
  · rw [decide_eq_true hw, onStage_missing i s run hw]
    exact .rejects _
  · rw [decide_eq_false hw, Machine.onStage, dif_pos (show w.toNat < Config.NSTAGE from Nat.lt_of_not_le hw)]
    exact h _

theorem onHighPass {w : BitVec 4} {run : Fin Config.NHPF → Result} (h : ∀ k, Judged i s v (run k)) :
    Judged i s (bif decide (3 ≤ w.toNat) then some .badidx else v) (onHighPass i w s run) := by
  by_cases hw : 3 ≤ w.toNat
  · rw [decide_eq_true hw, onHighPass_missing i s run hw]
    exact .rejects _
  · rw [decide_eq_false hw, Machine.onHighPass, dif_pos (Nat.lt_of_not_le hw)]
    exact h _

theorem onSpace {n : BitVec 4} {run : Space → Result} (h : ∀ sp, spaceOf n = some sp → Judged i s v (run sp)) :
    Judged i s (bif decide (11 ≤ n.toNat) then some .badidx else v) (onSpace i n s run) := by
  cases hn : spaceOf n with
  | none =>
    rw [decide_eq_true (spaceOf_eq_none.1 hn), onSpace_of_none i s run hn]
    exact .rejects _
  | some sp =>
    have hlt : ¬11 ≤ n.toNat := fun hle => by rw [spaceOf_eq_none.2 hle] at hn; cases hn
    rw [decide_eq_false hlt, onSpace_of_some i s run hn]
    exact h sp hn

theorem directOnly (h : Judged i s v r) : Judged i s (bif s.status.active then some .busy else v) (directOnly i s r) :=
  .check Iff.rfl h

theorem whenRunning (h : Judged i s v r) : Judged i s (bif !s.status.running then some .badstate else v) (whenRunning i s r) :=
  .checkNot h

end Judged

/-! ## CSRR and CSRW -/

/-- A global index is missing when it names no register (R96). -/
theorem csrMissing_of_global (t : BitVec 4) {csr : BitVec 8} (h : csrIsGlobal csr = true) :
    csrMissing t csr = (globalReg csr).isNone := by
  have hcsr : ∀ csr : BitVec 8, csrIsGlobal csr = true →
      ¬csr.toNat < 0x80 ∧ decide (0x8E ≤ csr.toNat) = (globalReg csr).isNone := by decide
  obtain ⟨hge, hnone⟩ := hcsr csr h
  rw [csrMissing, if_neg hge, hnone]

/-- A per-track index is missing when it or its track names nothing (R96). -/
theorem csrMissing_of_track (t : BitVec 4) {csr : BitVec 8} (h : csrIsGlobal csr = false) :
    csrMissing t csr = ((trackReg csr).isNone || decide (4 ≤ t.toNat)) := by
  have hcsr : ∀ csr : BitVec 8, csrIsGlobal csr = false →
      csr.toNat < 0x80 ∧ undefinedTrackCsr csr.toNat = (trackReg csr).isNone := by decide
  obtain ⟨hlt, hnone⟩ := hcsr csr h
  rw [csrMissing, if_pos hlt, hnone]

/-- The global register a CSRW may write is ERR (R26). -/
theorem csrWritable_of_global {csr : BitVec 8} {g : GlobalReg} (h : globalReg csr = some g) (v : Word) (s : State) :
    csrWritable csr = (g.write v s).isSome := by
  have hcsr : ∀ csr : BitVec 8, (globalReg csr).all (fun g => csrWritable csr == decide (g = .err)) = true := by decide
  have hg := hcsr csr
  rw [h, Option.all_some, beq_iff_eq] at hg
  rw [hg]
  cases g <;> rfl

/-- The per-track registers a CSRW may write are those with a write transform (R28). -/
theorem csrWritable_of_track {csr : BitVec 8} {r : TrackReg} (h : trackReg csr = some r) (v : Word) (tr : Track) :
    csrWritable csr = (r.write v tr).isSome := by
  have hcsr : ∀ csr : BitVec 8,
      (trackReg csr).all (fun r => csrWritable csr == (r.write 0 Track.reset).isSome) = true := by decide
  have hr := hcsr csr
  rw [h, Option.all_some, beq_iff_eq] at hr
  rw [hr]
  cases r <;> rfl

theorem execCsrr_judged (rd : Reg) (t : BitVec 4) (csr : BitVec 8) (s : State) :
    Judged (.csrr rd t csr) s (verdict (.csrr rd t csr) s) (execCsrr rd t csr s) := by
  have hread : ∀ w, Judged (.csrr rd t csr) s none (.next (s.setX rd w)) := fun w => .passes (.next (.of_eq rfl rfl))
  unfold execCsrr
  refine .check (v := bif csrMissing t csr then some .badidx else none) Iff.rfl ?_
  cases hglobal : csrIsGlobal csr
  case true =>
    rw [csrMissing_of_global t hglobal]
    cases globalReg csr with
    | none => exact .rejects _
    | some g => exact hread _
  case false =>
    rw [csrMissing_of_track t hglobal, if_neg Bool.false_ne_true]
    cases trackReg csr with
    | none => exact .rejects _
    | some r => exact .onTrack fun k => hread _

theorem execCsrw_judged (t : BitVec 4) (csr : BitVec 8) (rs : Reg) (s : State) :
    Judged (.csrw t csr rs) s (verdict (.csrw t csr rs) s) (execCsrw t csr rs s) := by
  unfold execCsrw
  refine .check (v := bif csrMissing t csr then some .badidx else bif !csrWritable csr then some .access else none) Iff.rfl ?_
  cases hglobal : csrIsGlobal csr
  case true =>
    rw [csrMissing_of_global t hglobal]
    cases hg : globalReg csr with
    | none => exact .rejects _
    | some g =>
      rw [csrWritable_of_global hg (s.getX rs) s]
      cases g with
      | err => exact .passes (.next (.ackErr s _))
      | _ => exact .rejects _
  case false =>
    rw [csrMissing_of_track t hglobal, if_neg Bool.false_ne_true]
    cases hr : trackReg csr with
    | none => exact .rejects _
    | some r =>
      refine .onTrack fun k => ?_
      rw [csrWritable_of_track hr (s.getX rs) (s.track k)]
      cases r.write (s.getX rs) (s.track k) with
      | none => exact .rejects _
      | some p => exact .passes (.next (Unrejected.flagIf (.of_eq rfl rfl) _ (by decide)))

/-! ## LDM and STM -/

theorem execLdm_judged (rd : Reg) (n : BitVec 4) (ra : Reg) (post : Bool) (s : State) :
    Judged (.ldm rd n ra post) s (verdict (.ldm rd n ra post) s) (execLdm rd n ra post s) := by
  refine .onSpace (v := bif (spaceOf n).all fun sp => !sp.inRange (s.getX ra).toNat then some .memrange else none) fun sp hn => ?_
  rw [hn]
  refine .checkNot (.passes (.next ?_))
  cases post <;> exact .of_eq rfl rfl

/-- The spaces of check 4 and of check 6 by their numbers (R63, R126). -/
theorem storeChecks_of_space {n : BitVec 4} {sp : Space} (hn : spaceOf n = some sp) (ra : Reg) (post : Bool) (rv : Reg) :
    directCommand (.stm n ra post rv) = sp.directStore ∧ targetReadOnly (.stm n ra post rv) = decide (sp = .pb) := by
  rw [directCommand, targetReadOnly, spaceOf_eq_some.1 hn]
  cases sp <;> exact ⟨rfl, rfl⟩

theorem memWrite_unrejected (sp : Space) (a : Nat) (v : Word) (s : State) : Unrejected s (s.memWrite sp a v) := by
  cases sp <;> exact .of_eq rfl rfl

theorem execStm_judged (n : BitVec 4) (ra : Reg) (post : Bool) (rv : Reg) (s : State) :
    Judged (.stm n ra post rv) s (verdict (.stm n ra post rv) s) (execStm n ra post rv s) := by
  refine .onSpace (v := bif directCommand (.stm n ra post rv) && s.status.active then some .busy
    else bif targetReadOnly (.stm n ra post rv) then some .access
    else bif (spaceOf n).all fun sp => !sp.inRange (s.getX ra).toNat then some .memrange else none) fun sp hn => ?_
  obtain ⟨hdirect, htarget⟩ := storeChecks_of_space hn ra post rv
  rw [hdirect, htarget, hn]
  refine .check Iff.rfl (.check decide_eq_true_iff (.checkNot (.passes (.next ?_))))
  cases post <;> exact memWrite_unrejected sp _ _ s

/-! ## Units that can stop -/

theorem exists_mixTrk_ok {s : State} (h : s.UnitsLegal) (k : Fin Config.NTRK) : ∃ u, mixTrk k s = .ok u := by
  obtain ⟨hosc, hsampler, hreverb⟩ := h k
  obtain ⟨v, e, r, s1, s2, u, hchain⟩ := exists_trackChain ⟨hosc, hsampler⟩ hreverb
  exact ⟨_, mixTrk_eq_ok_iff.2 ⟨v, e, r, s1, s2, u, hchain, rfl⟩⟩

theorem execEngStart_judged (s : State) : Judged .engStart s (verdict .engStart s) (execEngStart s) := by
  refine .check (b := s.status.active || s.status.fatal) (v := none) Iff.rfl (.passes ?_)
  dsimp only
  split
  · exact .next (.of_eq (by simp) (by simp))
  · exact .next (Unrejected.flagIf (.flagIf (.of_eq (by simp) (by simp)) _ (by decide)) _ (by decide))

/-! ## Every command -/

/-- The meaning of every command makes the checks of R263 in their order. -/
theorem exec_judged (i : Instr) (s : State) : Judged i s (verdict i s) (exec i s) := by
  have hunit : ∀ {u : State}, UnitFrame s u → Completes s (.next u) := fun h => .next (.of_frame h.toRenderFrame)
  cases i <;> unfold exec
  case nop | lil | lih | cvtS16 | mixCvt => exact .passes (.next (.of_eq rfl rfl))
  case csrr rd t csr => exact execCsrr_judged rd t csr s
  case csrw t csr rs => exact execCsrw_judged t csr rs s
  case ldm rd n ra post => exact execLdm_judged rd n ra post s
  case stm n ra post rv => exact execStm_judged n ra post rv s
  case engStart => exact execEngStart_judged s
  case engStop | engPause | engResume => exact .whenRunning (.passes (.next (.of_eq rfl rfl)))
  case oscSetf t rs => exact .onTrack fun k => .directOnly (.passes (hunit (oscSetf_unitFrame k _ s)))
  case smpTrig t => exact .onTrack fun k => .directOnly (.passes (hunit (smpTrig_unitFrame k s)))
  case dlyIn t rs => exact .onTrack fun k => .directOnly (.passes (hunit (dlyIn_unitFrame k _ s)))
  case revIn t rs => exact .onTrack fun k => .directOnly (.passes (hunit (revIn_unitFrame k _ s)))
  case seqTick t => exact .onTrack fun k => .directOnly (.passes (hunit (seqTick_unitFrame k s)))
  case voxTrig t note accent slide =>
    exact .onTrack fun k => .directOnly (.passes (hunit (voxTrig_unitFrame k note accent slide s)))
  case voxOff t => exact .onTrack fun k => .directOnly (.passes (hunit (voxOff_unitFrame k s)))
  case smpSets | dlySett => exact .onTrack fun k => .passes (.next (Unrejected.flagIf (.of_eq rfl rfl) _ (by decide)))
  case hpfSetc =>
    exact .or (.onTrack fun k => .onHighPass fun w => .passes (.next (Unrejected.flagIf (.of_eq rfl rfl) _ (by decide))))
  case revRst | seqRnds | seqRndr | mixPan => exact .onTrack fun k => .passes (.next (.of_eq (by simp) (by simp)))
  case wtSeal n => exact .directOnly (.passes (.next (.of_eq rfl rfl)))
  case apfMute => exact .or (.onTrack fun k => .onStage fun w => .directOnly (.passes (.next (.of_eq rfl rfl))))
  case dlyOut rd t =>
    exact .onTrack fun k => .directOnly (.passes (.next ((Unrejected.of_frame (dlyOut_unitFrame k s).toRenderFrame).congr rfl rfl)))
  case mixEmit => exact .directOnly (.passes (.next (.of_frame (mixEmit_renderFrame s))))
  case hpfProc rd t v rs =>
    refine .or (.onTrack fun k => .onHighPass fun w => .directOnly
      (.passes (.resultToX (fun y u h => ?_) fun _ => ⟨_, _, rfl⟩)))
    cases h
    exact hpfProc_unitFrame k w _ s
  case oscTick rd t =>
    refine .onTrack fun k => .directOnly (.passes (.resultToX (fun _ _ => oscTick_unitFrame) fun h => ?_))
    obtain ⟨hosc, -⟩ := h k
    obtain ⟨raw, htick⟩ := oscTick_of_legal hosc
    exact ⟨raw, _, htick⟩
  case smpTick rd t =>
    refine .onTrack fun k => .directOnly (.passes (.resultToX (fun _ _ => smpTick_unitFrame) fun h => ?_))
    obtain ⟨-, hsampler, -⟩ := h k
    obtain ⟨raw, q, htick⟩ := smpTick_of_legal hsampler
    exact ⟨raw, _, htick⟩
  case apfProc rd t v rs =>
    refine .or (.onTrack fun k => .onStage fun w => .directOnly (.passes (.resultToX (fun _ _ => apfProc_unitFrame) fun h => ?_)))
    obtain ⟨-, -, hreverb⟩ := h k
    exact apfProc_of_legal hreverb w _
  case revProc rd t =>
    refine .onTrack fun k => .directOnly (.passes ?_)
    split
    · case h_1 y u hok => exact .next ((Unrejected.of_frame (revProc_unitFrame hok).toRenderFrame).congr rfl rfl)
    · case h_2 e herror =>
      refine .fault e fun h => ?_
      obtain ⟨-, -, hreverb⟩ := h k
      obtain ⟨u, hok, -⟩ := revProc_of_legal hreverb
      cases herror.symm.trans hok
  case voxTick rd t =>
    refine .onTrack fun k => .directOnly (.passes ?_)
    split
    · case h_1 v u hok => exact .next ((Unrejected.of_frame (voxTick_unitFrame hok).toRenderFrame).congr rfl rfl)
    · case h_2 e herror =>
      refine .fault e fun h => ?_
      obtain ⟨hosc, hsampler, -⟩ := h k
      obtain ⟨raw, p, q, -, hok⟩ := voxTick_of_legal ⟨hosc, hsampler⟩
      cases herror.symm.trans hok
  case mixTrk t =>
    refine .onTrack fun k => .directOnly (.passes ?_)
    cases hmix : mixTrk k s with
    | ok u => exact hunit (mixTrk_unitFrame hmix)
    | error e =>
      refine .fault e fun h => ?_
      obtain ⟨u, hok⟩ := exists_mixTrk_ok h k
      cases hmix.symm.trans hok

end Sys2Proof.Laws
end

section
/-! PROOF. The first failing check rejects (O6). -/

namespace Sys2Proof.Proofs

open Sys2Proof Sys2Proof.Machine Sys2Proof.Laws

/-- Settles O6: the conditions of R263 are the verdict on the command, and the command's meaning follows the verdict. -/
theorem firstFailingCheckRejects : Obligations.FirstFailingCheckRejects := by
  refine ⟨fun w s e herror => commandTurn_of_error herror s, fun i s c hrejected => ?_, fun i s u hpassed hnext => ?_⟩
  · have hjudged := exec_judged i s
    rw [verdict_of_rejected hrejected] at hjudged
    generalize exec i s = r at hjudged
    cases hjudged
    rfl
  · have hverdict : verdict i s = none := Option.eq_none_iff_forall_ne_some.2 fun c hc => hpassed c (rejected_of_verdict hc)
    have hjudged := exec_judged i s
    rw [hverdict, hnext] at hjudged
    cases hjudged with
    | passes hcompletes =>
      cases hcompletes with
      | next hunrejected => exact hunrejected

end Sys2Proof.Proofs
end

section
/-! SUPPORT. Every turn answers a next state while the units are legal, and the units stay legal in every run (R260, R307). -/

namespace Sys2Proof.Laws

open Sys2Proof Sys2Proof.Machine

/-! ## One step -/

theorem exists_next_of_judged {i : Instr} {s : State} {v : Option Condition} {r : Result} (h : Judged i s v r)
    (hlegal : s.UnitsLegal) : ∃ u, r = .next u := by
  cases h with
  | rejects c => exact ⟨_, rfl⟩
  | passes hcompletes =>
    cases hcompletes with
    | next h => exact ⟨_, rfl⟩
    | fault e hillegal => exact absurd hlegal hillegal

theorem exists_next_of_commandTurn {s : State} (h : s.UnitsLegal) (w : Word) : ∃ u, commandTurn w s = .next u := by
  cases hdecode : decode w with
  | ok i =>
    rw [commandTurn_of_decode hdecode]
    exact exists_next_of_judged (exec_judged i s) h
  | error e => exact ⟨_, commandTurn_of_error hdecode s⟩

theorem exists_slotStep_ok {s : State} (h : s.UnitsLegal) : ∃ u, slotStep s = .ok u := by
  by_cases hseq : s.rpos.slot.val < Config.NTRK
  · exact ⟨_, slotStep_of_seqTick hseq⟩
  by_cases hmix : s.rpos.slot.val < 2 * Config.NTRK
  · obtain ⟨u, hok⟩ := exists_mixTrk_ok h (mixTrackOf s.rpos.slot hmix)
    exact ⟨_, slotStep_of_mixTrk hseq hmix hok⟩
  · exact ⟨_, slotStep_of_mixEmit hmix⟩

theorem exists_next_of_agentTurn {s : State} (h : s.UnitsLegal) : ∃ u, agentTurn s = .next u := by
  cases henabled : s.agentEnabled with
  | false => exact ⟨_, agentTurn_of_waiting henabled⟩
  | true =>
    cases hdisposing : s.disposing with
    | true => exact ⟨_, agentTurn_of_disposing henabled hdisposing⟩
    | false =>
      have hslot : ¬NoSlot s := by rw [noSlot_iff, henabled, hdisposing]; decide
      obtain ⟨u, hok⟩ := exists_slotStep_ok h
      exact ⟨u, by rw [agentTurn_of_slot hslot, hok, resultOf]⟩

/-- Whoever's turn it is, the step answers. -/
theorem exists_step_next {s : State} (h : s.UnitsLegal) : ∃ u, step s = .next u := by
  have hdrop : s.dropTurn.UnitsLegal := h
  unfold step
  split
  · exact exists_next_of_agentTurn h
  · exact exists_next_of_commandTurn hdrop _
  · exact exists_next_of_agentTurn hdrop
  · exact ⟨_, rfl⟩

/-! ## Runs -/

/-- What keeps the units of a track legal from step to step. -/
abbrev RunLegal (tr : Track) : Prop := tr.OscLegal ∧ RangesLegal tr

theorem trackChange_runLegal (tr tr' : Track) (hchange : TrackChange tr tr') (h : RunLegal tr) : RunLegal tr' := by
  obtain ⟨hosc, hranges⟩ := h
  exact ⟨trackChange_oscLegal tr tr' hchange hosc, trackChange_rangesLegal tr tr' hchange hranges⟩

theorem unitsLegal_of_runLegal {s : State} (h : ∀ k, RunLegal (s.track k)) : s.UnitsLegal := by
  intro k
  obtain ⟨hosc, -, hsampler, hreverb, -⟩ := h k
  exact ⟨hosc, hsampler, hreverb⟩

theorem runLegal_reset : RunLegal Track.reset :=
  ⟨reset_oscLegal, reset_configLegal, reset_samplerLegal, reset_reverbLegal, reset_filterLegal⟩

theorem run_succ_of_step {M : Host.Core} {s u : M.State} (h : M.step s = .next u) (n : Nat) : M.run (n + 1) s = M.run n u := by
  rw [Host.Core.run, h]

/-- A run of any length answers from a legal state: each step answers, and leaves a legal state. -/
theorem exists_run_next (n : Nat) {s : State} (h : ∀ k, RunLegal (s.track k)) :
    ∃ u, Host.Core.run Sys2Proof.core n s = .next u := by
  induction n generalizing s with
  | zero => exact ⟨s, rfl⟩
  | succ n ih =>
    obtain ⟨u, hstep⟩ := exists_step_next (unitsLegal_of_runLegal h)
    obtain ⟨w, hrun⟩ := ih fun k => (step_tracksChange hstep).induct trackChange_runLegal (h k)
    exact ⟨w, (run_succ_of_step (M := Sys2Proof.core) hstep n).trans hrun⟩

end Sys2Proof.Laws
end

section
/-! PROOF. Nothing stops (O60). -/

namespace Sys2Proof.Proofs

open Sys2Proof Sys2Proof.Machine Sys2Proof.Laws

/-- Settles O60: a step answers where the units are legal; they are after reset, and every change of a track keeps them so. -/
theorem nothingStops : Obligations.NothingStops := by
  refine ⟨fun s h => exists_step_next h, fun inputs n => exists_run_next n fun k => ?_⟩
  rw [show State.track { State.reset with inputs := inputs } k = Track.reset from reset_track k]
  exact runLegal_reset

end Sys2Proof.Proofs
end
